-- ==== Sys2Proof/Word.lean ====
section
/-!
DEFINITION. The widths of the two blocks' values (00_scope.md R6, R8): 32-bit registers, bytes on the bus,
byte lanes, timer numbers.
-/

namespace Sys2Proof

/-- A 32-bit register value (R6, R8: unsigned). -/
abbrev Word := BitVec 32

/-- The unit of every access (R62). -/
abbrev Byte := BitVec 8

/-- A byte lane `off[1:0]` of a 32-bit register slot (R15, R63). -/
abbrev Lane := BitVec 2

/-- The number of one of the three timers (R20). -/
abbrev TimerIx := Fin 3

end Sys2Proof
end

