-- ==== Sys2Proof/Config.lean ====
section
/-!
DEFINITION. The implementation parameters of 00_scope.md R6. The OPEN ones are the fields of `Config`, whose
value for this machine (`Config.params`) has no body, so no proof can lean on a number (R7; log entry 6). The
decided ones are named definitions that can be replaced in one place (R7; log entry 8).
-/

namespace Sys2Proof

/-- The OPEN parameters of R6. The three bounded ones are held as what they exceed their least legal value by,
so that every `Config` is legal and every legal choice is a `Config`. -/
structure Config where
  /-- `TMR_REVISION`, any 32-bit constant (D8). -/
  revision : Word
  /-- `STATUS_DELAY - 1` (D13: `STATUS_DELAY >= 1`). -/
  statusDelayPred : Nat
  /-- `INTRPT_DELAY - STATUS_DELAY` (D13: `INTRPT_DELAY >= STATUS_DELAY`). -/
  intrptDelayExtra : Nat
  /-- `PIPE_CAP - 1` (D14: `PIPE_CAP >= 1`). -/
  pipeCapPred : Nat
  deriving DecidableEq, Repr, Inhabited

/-- `STATUS_DELAY`: block cycles from a count-step event to its status bit (D13). -/
def Config.statusDelay (c : Config) : Nat := c.statusDelayPred + 1

/-- `INTRPT_DELAY`: block cycles from a count-step event to the interrupt line (D13). -/
def Config.intrptDelay (c : Config) : Nat := c.statusDelay + c.intrptDelayExtra

/-- `PIPE_CAP`: entries each delay pipeline can hold (D14). -/
def Config.pipeCap (c : Config) : Nat := c.pipeCapPred + 1

/-- The parameters of THIS machine: a constant with no body (R7, 93_implementation_defined.md section 1). -/
opaque Config.params : Config

/-! Decided widths of the two windows (R6, R60; D18, D21). Every width of an offset, of a word index and of an access
word follows from these two. -/

/-- `TMR_OFF_BITS`: the width of an offset in the TIMER window (D18). -/
abbrev Config.tmrOffBits : Nat := 8
/-- `CRYPTO_OFF_BITS`: the width of an offset in the CRYPTO window (D21). -/
abbrev Config.cryptoOffBits : Nat := 8

/-- An offset within the TIMER window (R60). -/
abbrev TimerOffset := BitVec Config.tmrOffBits

/-- An offset within the CRYPTO window (R60). -/
abbrev CryptoOffset := BitVec Config.cryptoOffBits

/-- A CRYPTO word index `off >> 2` (R85), of `CRYPTO_OFF_BITS - 2` bits; also what `last` holds (R42). -/
abbrev WordIndex := BitVec (Config.cryptoOffBits - 2)

/-- `TMR_WINDOW`: how many offsets of the TIMER block select registers (R6, R83). -/
def Config.tmrWindow : Nat := 0x40

/-! Decided parameters of the CRYPTO window (R6, R86; D21). -/

/-- `CTRL_OFF`: the offset of the control byte. -/
def Config.ctrlOff : CryptoOffset := 0x00
/-- `LAST_IDX`: the word index of the last-state-word shortcut. -/
def Config.lastIdx : WordIndex := 0x03
/-- `BLOCK_IDX`: the first word index of the message block. -/
def Config.blockIdx : WordIndex := 0x04
/-- `STATE_IDX`: the first word index of the hash state. -/
def Config.stateIdx : WordIndex := 0x18

/-! Decided patterns of the control byte (R88, R191; D25). -/

/-- The bit of the control byte that selects ZERO. -/
def Config.zeroBit : Nat := 4
/-- INIT is selected when `v & initMask = initPattern`. -/
def Config.initMask : Byte := 0x0E#8
/-- The pattern of INIT. -/
def Config.initPattern : Byte := 0x0A#8
/-- COMPRESS is selected when `v & compressMask = compressPattern`. -/
def Config.compressMask : Byte := 0x0A#8
/-- The pattern of COMPRESS. -/
def Config.compressPattern : Byte := 0x0A#8

end Sys2Proof
end

