-- ==== Sys2Proof/Syntax.lean ====
section
/-!
DEFINITION. The transactions of 30_encoding.md. `Instr` has one constructor per row of spec/opcode_table.json;
its operands are the fields of R80 and the operands R80 puts outside the word (the data byte, the lock inputs).
`BusWord` and `Transaction` are what the host presents to the blocks.
-/

namespace Sys2Proof

/-- The bit `P` of a TIMER access (R80): `normal` is `P = 0`, `inspect` (peek of a read, poke of a write) is `P = 1`. -/
inductive Variant where
  | normal
  | inspect
  deriving DecidableEq, Repr

/-- The CryptoBlock's lock inputs, sampled with a normal access (R43). -/
structure Locks where
  /-- The platform allows this class of operation: `false` locks normal reads. -/
  opAllowed : Bool
  /-- The configuration is write protected: `true` locks normal writes. -/
  writeProtected : Bool
  deriving DecidableEq, Repr

/-- The bit `P` of a CRYPTO access with the lock inputs a normal access carries (R80, R43); peek and poke
consult no lock (R189). -/
inductive Access where
  | normal (locks : Locks)
  | inspect
  deriving DecidableEq, Repr

/-- One transaction or event, one constructor per row of spec/opcode_table.json. `p`, `a`: the variant; `k`: the
byte lane; `j`: the word of the block or of the hash state; `off`: the offset, where the row covers offsets that
select no register; `b`, `v`: the data byte. -/
inductive Instr where
  /-- TRD.CNT0 (R102). -/
  | trdCnt0 (p : Variant) (k : Lane)
  /-- TRD.RLD0 (R103). -/
  | trdRld0 (p : Variant) (k : Lane)
  /-- TRD.M00 (R104). -/
  | trdM00 (p : Variant) (k : Lane)
  /-- TRD.M10 (R105). -/
  | trdM10 (p : Variant) (k : Lane)
  /-- TRD.CNT1 (R102). -/
  | trdCnt1 (p : Variant) (k : Lane)
  /-- TRD.RLD1 (R103). -/
  | trdRld1 (p : Variant) (k : Lane)
  /-- TRD.M01 (R104). -/
  | trdM01 (p : Variant) (k : Lane)
  /-- TRD.M11 (R105). -/
  | trdM11 (p : Variant) (k : Lane)
  /-- TRD.CNT2 (R102). -/
  | trdCnt2 (p : Variant) (k : Lane)
  /-- TRD.RLD2 (R103). -/
  | trdRld2 (p : Variant) (k : Lane)
  /-- TRD.M02 (R104). -/
  | trdM02 (p : Variant) (k : Lane)
  /-- TRD.M12 (R105). -/
  | trdM12 (p : Variant) (k : Lane)
  /-- TRD.CTRL (R115). -/
  | trdCtrl (p : Variant) (k : Lane)
  /-- TRD.STATUS (R120). -/
  | trdStatus (p : Variant) (k : Lane)
  /-- TRD.MASK (R124). -/
  | trdMask (p : Variant) (k : Lane)
  /-- TRD.REV (R128). -/
  | trdRev (p : Variant) (k : Lane)
  /-- TRD.OOR_A (R130). -/
  | trdOorA (p : Variant) (off : TimerOffset)
  /-- TRD.OOR_B (R130). -/
  | trdOorB (p : Variant) (off : TimerOffset)
  /-- TWR.CNT0 (R106). -/
  | twrCnt0 (p : Variant) (k : Lane) (b : Byte)
  /-- TWR.RLD0 (R107). -/
  | twrRld0 (p : Variant) (k : Lane) (b : Byte)
  /-- TWR.M00 (R108). -/
  | twrM00 (p : Variant) (k : Lane) (b : Byte)
  /-- TWR.M10 (R109). -/
  | twrM10 (p : Variant) (k : Lane) (b : Byte)
  /-- TWR.CNT1 (R106). -/
  | twrCnt1 (p : Variant) (k : Lane) (b : Byte)
  /-- TWR.RLD1 (R107). -/
  | twrRld1 (p : Variant) (k : Lane) (b : Byte)
  /-- TWR.M01 (R108). -/
  | twrM01 (p : Variant) (k : Lane) (b : Byte)
  /-- TWR.M11 (R109). -/
  | twrM11 (p : Variant) (k : Lane) (b : Byte)
  /-- TWR.CNT2 (R106). -/
  | twrCnt2 (p : Variant) (k : Lane) (b : Byte)
  /-- TWR.RLD2 (R107). -/
  | twrRld2 (p : Variant) (k : Lane) (b : Byte)
  /-- TWR.M02 (R108). -/
  | twrM02 (p : Variant) (k : Lane) (b : Byte)
  /-- TWR.M12 (R109). -/
  | twrM12 (p : Variant) (k : Lane) (b : Byte)
  /-- TWR.CTRL (R116). -/
  | twrCtrl (p : Variant) (k : Lane) (b : Byte)
  /-- TWR.STATUS (R122). -/
  | twrStatus (p : Variant) (k : Lane) (b : Byte)
  /-- TWR.MASK (R126). -/
  | twrMask (p : Variant) (k : Lane) (b : Byte)
  /-- TWR.REV (R129). -/
  | twrRev (p : Variant) (k : Lane) (b : Byte)
  /-- TWR.OOR_A (R131). -/
  | twrOorA (p : Variant) (off : TimerOffset) (b : Byte)
  /-- TWR.OOR_B (R131). -/
  | twrOorB (p : Variant) (off : TimerOffset) (b : Byte)
  /-- CRD.LAST (R187). -/
  | crdLast (a : Access) (k : Lane)
  /-- CRD.BLOCK.A (R185). -/
  | crdBlockA (a : Access) (j : BitVec 4) (k : Lane)
  /-- CRD.BLOCK.B (R185). -/
  | crdBlockB (a : Access) (j : BitVec 4) (k : Lane)
  /-- CRD.BLOCK.C (R185). -/
  | crdBlockC (a : Access) (j : BitVec 4) (k : Lane)
  /-- CRD.STATE (R186). -/
  | crdState (a : Access) (j : BitVec 3) (k : Lane)
  /-- CRD.NONE (R184). -/
  | crdNone (a : Access) (off : CryptoOffset)
  /-- CWR.CTRL (R190). -/
  | cwrCtrl (a : Access) (v : Byte)
  /-- CWR.LAST (R197). -/
  | cwrLast (a : Access) (k : Lane) (b : Byte)
  /-- CWR.BLOCK.A (R195). -/
  | cwrBlockA (a : Access) (j : BitVec 4) (k : Lane) (b : Byte)
  /-- CWR.BLOCK.B (R195). -/
  | cwrBlockB (a : Access) (j : BitVec 4) (k : Lane) (b : Byte)
  /-- CWR.BLOCK.C (R195). -/
  | cwrBlockC (a : Access) (j : BitVec 4) (k : Lane) (b : Byte)
  /-- CWR.STATE (R196). -/
  | cwrState (a : Access) (j : BitVec 3) (k : Lane) (b : Byte)
  /-- CWR.NONE (R198). -/
  | cwrNone (a : Access) (off : CryptoOffset) (b : Byte)
  /-- TCYCLE (R140). -/
  | tcycle (clk1 : Bool)
  /-- TRESET (R260). -/
  | treset
  /-- CRESET (R261). -/
  | creset
  deriving DecidableEq, Repr

/-- The word of a transaction: the block it goes to (or an event) and its bits (R80). -/
inductive BusWord where
  /-- Format TA: `off` in the low `TMR_OFF_BITS` bits (7:0), then `W` (8) and `P` (9), to the TimerBlock. -/
  | ta (w : BitVec (Config.tmrOffBits + 2))
  /-- Format CA: `off` in the low `CRYPTO_OFF_BITS` bits (7:0), then `W` (8) and `P` (9), to the CryptoBlock. -/
  | ca (w : BitVec (Config.cryptoOffBits + 2))
  /-- Format EV: `code` bits 3:2, `z` bit 1, `c1` bit 0. -/
  | ev (w : BitVec 4)
  deriving DecidableEq, Repr

/-- What the host presents: the word, and the operands R80 puts outside it. A transaction that has no use for
an operand ignores it. -/
structure Transaction where
  word : BusWord
  /-- The data byte of a write. -/
  data : Byte
  /-- The lock inputs at the moment of the access. -/
  locks : Locks
  deriving DecidableEq, Repr

end Sys2Proof
end

