-- ==== Sys2Proof/WellFormed.lean ====
section
/-!
DEFINITION. Which terms of `Instr` a transaction word can spell: the operand ranges of 30_encoding.md R84 and R86
and of the split of the message block into three rows (R92), in the named parameters of Config. Widths are in the types
already.
-/

namespace Sys2Proof

/-- A TIMER offset of the row `OOR_A`: the window's length just past it, `off[7:6] = 01` (R130). -/
def offIsOorA (off : TimerOffset) : Bool :=
  decide (Config.tmrWindow ≤ off.toNat ∧ off.toNat < 2 * Config.tmrWindow)

/-- A TIMER offset of the row `OOR_B`: everything past those of `OOR_A`, `off[7] = 1` (R130). -/
def offIsOorB (off : TimerOffset) : Bool := decide (2 * Config.tmrWindow ≤ off.toNat)

/-- A message-block word of the rows `.A` (offsets 0x10-0x1F), R92. -/
def blockIsA (j : BitVec 4) : Bool := decide (j.toNat < 4)

/-- A message-block word of the rows `.B` (offsets 0x20-0x3F), R92. -/
def blockIsB (j : BitVec 4) : Bool := decide (4 ≤ j.toNat ∧ j.toNat < 12)

/-- A message-block word of the rows `.C` (offsets 0x40-0x4F), R92. -/
def blockIsC (j : BitVec 4) : Bool := decide (12 ≤ j.toNat)

/-- The four bytes of `count` words from word index `first` on include the offset (R85, R86). -/
def offInWords (first : WordIndex) (count : Nat) (off : CryptoOffset) : Bool :=
  decide (4 * first.toNat ≤ off.toNat ∧ off.toNat < 4 * (first.toNat + count))

/-- A CRYPTO offset that selects no readable word: not the last-state-word shortcut, not in the message block, not in
the hash state (R86, R184). -/
def offReadsNone (off : CryptoOffset) : Bool :=
  !(offInWords Config.lastIdx 1 off || offInWords Config.blockIdx 16 off || offInWords Config.stateIdx 8 off)

/-- A CRYPTO offset that selects no writable or named register: such an offset other than `CTRL_OFF` (R87, R198). -/
def offWritesNone (off : CryptoOffset) : Bool := offReadsNone off && decide (off ≠ Config.ctrlOff)

/-- The term is spelled by some transaction. -/
def Instr.wf : Instr → Bool
  | .trdOorA _ off => offIsOorA off
  | .trdOorB _ off => offIsOorB off
  | .twrOorA _ off _ => offIsOorA off
  | .twrOorB _ off _ => offIsOorB off
  | .crdBlockA _ j _ => blockIsA j
  | .crdBlockB _ j _ => blockIsB j
  | .crdBlockC _ j _ => blockIsC j
  | .cwrBlockA _ j _ _ => blockIsA j
  | .cwrBlockB _ j _ _ => blockIsB j
  | .cwrBlockC _ j _ _ => blockIsC j
  | .crdNone _ off => offReadsNone off
  | .cwrNone _ off _ => offWritesNone off
  | .trdCnt0 _ _ | .trdRld0 _ _ | .trdM00 _ _ | .trdM10 _ _ => true
  | .trdCnt1 _ _ | .trdRld1 _ _ | .trdM01 _ _ | .trdM11 _ _ => true
  | .trdCnt2 _ _ | .trdRld2 _ _ | .trdM02 _ _ | .trdM12 _ _ => true
  | .trdCtrl _ _ | .trdStatus _ _ | .trdMask _ _ | .trdRev _ _ => true
  | .twrCnt0 _ _ _ | .twrRld0 _ _ _ | .twrM00 _ _ _ | .twrM10 _ _ _ => true
  | .twrCnt1 _ _ _ | .twrRld1 _ _ _ | .twrM01 _ _ _ | .twrM11 _ _ _ => true
  | .twrCnt2 _ _ _ | .twrRld2 _ _ _ | .twrM02 _ _ _ | .twrM12 _ _ _ => true
  | .twrCtrl _ _ _ | .twrStatus _ _ _ | .twrMask _ _ _ | .twrRev _ _ _ => true
  | .crdLast _ _ | .crdState _ _ _ | .cwrCtrl _ _ | .cwrLast _ _ _ | .cwrState _ _ _ _ => true
  | .tcycle _ | .treset | .creset => true

end Sys2Proof
end

