-- ==== Sys2Proof/Decode.lean ====
section
/-!
DEFINITION. Decoding a transaction (30_encoding.md R80-R92) into `Instr`, and encoding back. Decoding follows the
register maps of R81-R87; `rowOf` holds the match and mask pairs of spec/opcode_table.json, which decode the same
words (R92). `decodeTableWord` is the host's question about one row of the table (log entry 2).
-/

namespace Sys2Proof

/-- Why a transaction has no meaning. -/
inductive DecodeError where
  /-- The EV word spells no event (R91). -/
  | reservedEvent (w : BitVec 4)
  deriving DecidableEq, Repr

/-! ## Fields -/

/-- `lane = off & 3` (R15, R81, R85). -/
def laneOf {n : Nat} (off : BitVec n) : Lane := off.extractLsb' 0 2

/-- `idx = off >> 2` (R85). -/
def indexOf (off : CryptoOffset) : WordIndex := off.extractLsb' 2 (Config.cryptoOffBits - 2)

/-- The `off` field of a TA or CA word: the low bits (R80). -/
def offsetOf {n : Nat} (w : BitVec (n + 2)) : BitVec n := w.extractLsb' 0 n

/-- The `W` field of a TA or CA word: the bit above the offset (R80). -/
def writeOf {n : Nat} (w : BitVec (n + 2)) : Bool := w.getLsbD n

/-- The `P` field of a TA or CA word: the top bit (R80). -/
def inspectOf {n : Nat} (w : BitVec (n + 2)) : Bool := w.getLsbD (n + 1)

/-- The variant a TA word's `P` field names (R80). -/
def variantOf (w : BitVec (Config.tmrOffBits + 2)) : Variant := if inspectOf w then .inspect else .normal

/-- The access a CA word's `P` field names, with the lock inputs of a normal access (R80). -/
def accessOf (w : BitVec (Config.cryptoOffBits + 2)) (locks : Locks) : Access :=
  if inspectOf w then .inspect else .normal locks

/-- The index is one of the sixteen message-block words (R86). -/
def indexInBlock (idx : WordIndex) : Bool :=
  decide (Config.blockIdx.toNat ≤ idx.toNat ∧ idx.toNat < Config.blockIdx.toNat + 16)

/-- The index is one of the eight hash-state words (R86). -/
def indexInState (idx : WordIndex) : Bool :=
  decide (Config.stateIdx.toNat ≤ idx.toNat ∧ idx.toNat < Config.stateIdx.toNat + 8)

/-- The message-block word a block index names (R86). -/
def blockWordOf (idx : WordIndex) : BitVec 4 := (idx - Config.blockIdx).setWidth 4

/-- The hash-state word a state index names (R86). -/
def stateWordOf (idx : WordIndex) : BitVec 3 := (idx - Config.stateIdx).setWidth 3

/-! ## Decoding -/

/-- The TIMER read at an offset: inside the window `n = off[5:4]` and `r = off[3:2]` (R81, R82, R84); outside it, one of the
rows of R130 and R131 (R83). -/
def timerReadAt (p : Variant) (off : TimerOffset) : Instr :=
  let k := laneOf off
  if off.toNat < Config.tmrWindow then
    match off.extractLsb' 4 2, off.extractLsb' 2 2 with
    | 0#2, 0#2 => .trdCnt0 p k
    | 0#2, 1#2 => .trdRld0 p k
    | 0#2, 2#2 => .trdM00 p k
    | 0#2, 3#2 => .trdM10 p k
    | 1#2, 0#2 => .trdCnt1 p k
    | 1#2, 1#2 => .trdRld1 p k
    | 1#2, 2#2 => .trdM01 p k
    | 1#2, 3#2 => .trdM11 p k
    | 2#2, 0#2 => .trdCnt2 p k
    | 2#2, 1#2 => .trdRld2 p k
    | 2#2, 2#2 => .trdM02 p k
    | 2#2, 3#2 => .trdM12 p k
    | 3#2, 0#2 => .trdCtrl p k
    | 3#2, 1#2 => .trdStatus p k
    | 3#2, 2#2 => .trdMask p k
    | 3#2, 3#2 => .trdRev p k
  else if offIsOorA off then .trdOorA p off
  else .trdOorB p off

/-- The TIMER write at an offset: inside the window `n = off[5:4]` and `r = off[3:2]` (R81, R82, R84); outside it, one of the
rows of R130 and R131 (R83). -/
def timerWriteAt (p : Variant) (off : TimerOffset) (b : Byte) : Instr :=
  let k := laneOf off
  if off.toNat < Config.tmrWindow then
    match off.extractLsb' 4 2, off.extractLsb' 2 2 with
    | 0#2, 0#2 => .twrCnt0 p k b
    | 0#2, 1#2 => .twrRld0 p k b
    | 0#2, 2#2 => .twrM00 p k b
    | 0#2, 3#2 => .twrM10 p k b
    | 1#2, 0#2 => .twrCnt1 p k b
    | 1#2, 1#2 => .twrRld1 p k b
    | 1#2, 2#2 => .twrM01 p k b
    | 1#2, 3#2 => .twrM11 p k b
    | 2#2, 0#2 => .twrCnt2 p k b
    | 2#2, 1#2 => .twrRld2 p k b
    | 2#2, 2#2 => .twrM02 p k b
    | 2#2, 3#2 => .twrM12 p k b
    | 3#2, 0#2 => .twrCtrl p k b
    | 3#2, 1#2 => .twrStatus p k b
    | 3#2, 2#2 => .twrMask p k b
    | 3#2, 3#2 => .twrRev p k b
  else if offIsOorA off then .twrOorA p off b
  else .twrOorB p off b

/-- A TA word with its data byte (R80). -/
def decodeTa (w : BitVec (Config.tmrOffBits + 2)) (b : Byte) : Instr :=
  if writeOf w then timerWriteAt (variantOf w) (offsetOf w) b else timerReadAt (variantOf w) (offsetOf w)

/-- A read of a message-block word, by the row its offset lies in (R92). -/
def blockReadAt (a : Access) (j : BitVec 4) (k : Lane) : Instr :=
  if blockIsA j then .crdBlockA a j k else if blockIsB j then .crdBlockB a j k else .crdBlockC a j k

/-- A write of a message-block word, by the row its offset lies in (R92). -/
def blockWriteAt (a : Access) (j : BitVec 4) (k : Lane) (b : Byte) : Instr :=
  if blockIsA j then .cwrBlockA a j k b else if blockIsB j then .cwrBlockB a j k b else .cwrBlockC a j k b

/-- The CRYPTO read at an offset: the word index against the ranges of R86, in the order of R87. -/
def cryptoReadAt (a : Access) (off : CryptoOffset) : Instr :=
  let idx := indexOf off
  let k := laneOf off
  if idx = Config.lastIdx then .crdLast a k
  else if indexInBlock idx then blockReadAt a (blockWordOf idx) k
  else if indexInState idx then .crdState a (stateWordOf idx) k
  else .crdNone a off

/-- The CRYPTO write at an offset: the control byte exactly at `CTRL_OFF`, else the ranges of R86 (R87). -/
def cryptoWriteAt (a : Access) (off : CryptoOffset) (b : Byte) : Instr :=
  let idx := indexOf off
  let k := laneOf off
  if off = Config.ctrlOff then .cwrCtrl a b
  else if idx = Config.lastIdx then .cwrLast a k b
  else if indexInBlock idx then blockWriteAt a (blockWordOf idx) k b
  else if indexInState idx then .cwrState a (stateWordOf idx) k b
  else .cwrNone a off b

/-- A CA word with its data byte and the lock inputs (R80). -/
def decodeCa (w : BitVec (Config.cryptoOffBits + 2)) (b : Byte) (locks : Locks) : Instr :=
  if writeOf w then cryptoWriteAt (accessOf w locks) (offsetOf w) b
  else cryptoReadAt (accessOf w locks) (offsetOf w)

/-- An EV word: `code` 3:2, `z` 1, `c1` 0; every spelling R89 does not list is reserved (R91). -/
def decodeEv (w : BitVec 4) : Except DecodeError Instr :=
  match w.extractLsb' 2 2, w.getLsbD 1, w.getLsbD 0 with
  | 0b00#2, false, c1 => .ok (.tcycle c1)
  | 0b01#2, false, false => .ok .treset
  | 0b10#2, false, false => .ok .creset
  | _, _, _ => .error (.reservedEvent w)

/-- The instruction a transaction spells, or why it spells none. Every TA and CA word spells one (R90). -/
def decode (tx : Transaction) : Except DecodeError Instr :=
  match tx.word with
  | .ta w => .ok (decodeTa w tx.data)
  | .ca w => .ok (decodeCa w tx.data tx.locks)
  | .ev w => decodeEv w

/-! ## Encoding -/

/-- The lock inputs the encoder gives where the transaction consults none. -/
def noLocks : Locks := ⟨false, false⟩

/-- The `P` bit of a TIMER variant. -/
def variantBit : Variant → Bool
  | .normal => false
  | .inspect => true

/-- The `P` bit of a CRYPTO access. -/
def accessBit : Access → Bool
  | .normal _ => false
  | .inspect => true

/-- The lock inputs of a CRYPTO access. -/
def accessLocks : Access → Locks
  | .normal locks => locks
  | .inspect => noLocks

/-- The bits of a TA or CA word: `P`, `W`, the offset (R80). -/
def accessWord {n : Nat} (p wr : Bool) (off : BitVec n) : BitVec (1 + 1 + n) :=
  BitVec.ofBool p ++ BitVec.ofBool wr ++ off

/-- Byte lane `k` of the four-byte slot at `base` (R81, R82). -/
def slotOffset (base : TimerOffset) (k : Lane) : TimerOffset := base ||| k.setWidth Config.tmrOffBits

/-- Byte lane `k` of the word index `idx` (R85). -/
def wordOffset (idx : WordIndex) (k : Lane) : CryptoOffset := idx ++ k

/-- The word index of message-block word `j` (R86). -/
def blockIndex (j : BitVec 4) : WordIndex := Config.blockIdx + j.setWidth (Config.cryptoOffBits - 2)

/-- The word index of hash-state word `j` (R86). -/
def stateIndex (j : BitVec 3) : WordIndex := Config.stateIdx + j.setWidth (Config.cryptoOffBits - 2)

/-- A TIMER access. -/
def taTransaction (p : Variant) (wr : Bool) (off : TimerOffset) (b : Byte) : Transaction :=
  ⟨.ta (accessWord (variantBit p) wr off), b, noLocks⟩

/-- A CRYPTO access. -/
def caTransaction (a : Access) (wr : Bool) (off : CryptoOffset) (b : Byte) : Transaction :=
  ⟨.ca (accessWord (accessBit a) wr off), b, accessLocks a⟩

/-- A block event with its `code` and `c1`; `z` is 0 (R80). -/
def evTransaction (code : BitVec 2) (c1 : Bool) : Transaction :=
  ⟨.ev (code ++ 0#1 ++ BitVec.ofBool c1), 0#8, noLocks⟩

/-- The transaction of a well-formed instruction, by the offset maps of R84 and R86 and the formats of R80. -/
def encode : Instr → Transaction
  | .trdCnt0 p k => taTransaction p false (slotOffset 0x00 k) 0#8
  | .trdRld0 p k => taTransaction p false (slotOffset 0x04 k) 0#8
  | .trdM00 p k => taTransaction p false (slotOffset 0x08 k) 0#8
  | .trdM10 p k => taTransaction p false (slotOffset 0x0C k) 0#8
  | .trdCnt1 p k => taTransaction p false (slotOffset 0x10 k) 0#8
  | .trdRld1 p k => taTransaction p false (slotOffset 0x14 k) 0#8
  | .trdM01 p k => taTransaction p false (slotOffset 0x18 k) 0#8
  | .trdM11 p k => taTransaction p false (slotOffset 0x1C k) 0#8
  | .trdCnt2 p k => taTransaction p false (slotOffset 0x20 k) 0#8
  | .trdRld2 p k => taTransaction p false (slotOffset 0x24 k) 0#8
  | .trdM02 p k => taTransaction p false (slotOffset 0x28 k) 0#8
  | .trdM12 p k => taTransaction p false (slotOffset 0x2C k) 0#8
  | .trdCtrl p k => taTransaction p false (slotOffset 0x30 k) 0#8
  | .trdStatus p k => taTransaction p false (slotOffset 0x34 k) 0#8
  | .trdMask p k => taTransaction p false (slotOffset 0x38 k) 0#8
  | .trdRev p k => taTransaction p false (slotOffset 0x3C k) 0#8
  | .trdOorA p off => taTransaction p false off 0#8
  | .trdOorB p off => taTransaction p false off 0#8
  | .twrCnt0 p k b => taTransaction p true (slotOffset 0x00 k) b
  | .twrRld0 p k b => taTransaction p true (slotOffset 0x04 k) b
  | .twrM00 p k b => taTransaction p true (slotOffset 0x08 k) b
  | .twrM10 p k b => taTransaction p true (slotOffset 0x0C k) b
  | .twrCnt1 p k b => taTransaction p true (slotOffset 0x10 k) b
  | .twrRld1 p k b => taTransaction p true (slotOffset 0x14 k) b
  | .twrM01 p k b => taTransaction p true (slotOffset 0x18 k) b
  | .twrM11 p k b => taTransaction p true (slotOffset 0x1C k) b
  | .twrCnt2 p k b => taTransaction p true (slotOffset 0x20 k) b
  | .twrRld2 p k b => taTransaction p true (slotOffset 0x24 k) b
  | .twrM02 p k b => taTransaction p true (slotOffset 0x28 k) b
  | .twrM12 p k b => taTransaction p true (slotOffset 0x2C k) b
  | .twrCtrl p k b => taTransaction p true (slotOffset 0x30 k) b
  | .twrStatus p k b => taTransaction p true (slotOffset 0x34 k) b
  | .twrMask p k b => taTransaction p true (slotOffset 0x38 k) b
  | .twrRev p k b => taTransaction p true (slotOffset 0x3C k) b
  | .twrOorA p off b => taTransaction p true off b
  | .twrOorB p off b => taTransaction p true off b
  | .crdLast a k => caTransaction a false (wordOffset Config.lastIdx k) 0#8
  | .crdBlockA a j k => caTransaction a false (wordOffset (blockIndex j) k) 0#8
  | .crdBlockB a j k => caTransaction a false (wordOffset (blockIndex j) k) 0#8
  | .crdBlockC a j k => caTransaction a false (wordOffset (blockIndex j) k) 0#8
  | .crdState a j k => caTransaction a false (wordOffset (stateIndex j) k) 0#8
  | .crdNone a off => caTransaction a false off 0#8
  | .cwrCtrl a v => caTransaction a true Config.ctrlOff v
  | .cwrLast a k b => caTransaction a true (wordOffset Config.lastIdx k) b
  | .cwrBlockA a j k b => caTransaction a true (wordOffset (blockIndex j) k) b
  | .cwrBlockB a j k b => caTransaction a true (wordOffset (blockIndex j) k) b
  | .cwrBlockC a j k b => caTransaction a true (wordOffset (blockIndex j) k) b
  | .cwrState a j k b => caTransaction a true (wordOffset (stateIndex j) k) b
  | .cwrNone a off b => caTransaction a true off b
  | .tcycle clk1 => evTransaction 0b00#2 clk1
  | .treset => evTransaction 0b01#2 false
  | .creset => evTransaction 0b10#2 false

/-! ## The opcode table -/

/-- The three transaction formats (R80). -/
inductive Format where
  | ta
  | ca
  | ev
  deriving DecidableEq, Repr

/-- One row of spec/opcode_table.json: its mnemonic, format, match value, mask and priority (R92). The numbers of the
table spell out the decided layout; the decoder above follows the parameters of Config. -/
structure Row where
  mnemonic : String
  fmt : Format
  pat : BitVec 10
  mask : BitVec 10
  priority : Nat
  deriving DecidableEq, Repr

/-- The row of the table each constructor stands for. -/
def rowOf : Instr → Row
  | .trdCnt0 _ _ => ⟨"TRD.CNT0", .ta, 0x000#10, 0x1FC#10, 0⟩
  | .trdRld0 _ _ => ⟨"TRD.RLD0", .ta, 0x004#10, 0x1FC#10, 0⟩
  | .trdM00 _ _ => ⟨"TRD.M00", .ta, 0x008#10, 0x1FC#10, 0⟩
  | .trdM10 _ _ => ⟨"TRD.M10", .ta, 0x00C#10, 0x1FC#10, 0⟩
  | .trdCnt1 _ _ => ⟨"TRD.CNT1", .ta, 0x010#10, 0x1FC#10, 0⟩
  | .trdRld1 _ _ => ⟨"TRD.RLD1", .ta, 0x014#10, 0x1FC#10, 0⟩
  | .trdM01 _ _ => ⟨"TRD.M01", .ta, 0x018#10, 0x1FC#10, 0⟩
  | .trdM11 _ _ => ⟨"TRD.M11", .ta, 0x01C#10, 0x1FC#10, 0⟩
  | .trdCnt2 _ _ => ⟨"TRD.CNT2", .ta, 0x020#10, 0x1FC#10, 0⟩
  | .trdRld2 _ _ => ⟨"TRD.RLD2", .ta, 0x024#10, 0x1FC#10, 0⟩
  | .trdM02 _ _ => ⟨"TRD.M02", .ta, 0x028#10, 0x1FC#10, 0⟩
  | .trdM12 _ _ => ⟨"TRD.M12", .ta, 0x02C#10, 0x1FC#10, 0⟩
  | .trdCtrl _ _ => ⟨"TRD.CTRL", .ta, 0x030#10, 0x1FC#10, 0⟩
  | .trdStatus _ _ => ⟨"TRD.STATUS", .ta, 0x034#10, 0x1FC#10, 0⟩
  | .trdMask _ _ => ⟨"TRD.MASK", .ta, 0x038#10, 0x1FC#10, 0⟩
  | .trdRev _ _ => ⟨"TRD.REV", .ta, 0x03C#10, 0x1FC#10, 0⟩
  | .trdOorA _ _ => ⟨"TRD.OOR_A", .ta, 0x040#10, 0x1C0#10, 0⟩
  | .trdOorB _ _ => ⟨"TRD.OOR_B", .ta, 0x080#10, 0x180#10, 0⟩
  | .twrCnt0 _ _ _ => ⟨"TWR.CNT0", .ta, 0x100#10, 0x1FC#10, 0⟩
  | .twrRld0 _ _ _ => ⟨"TWR.RLD0", .ta, 0x104#10, 0x1FC#10, 0⟩
  | .twrM00 _ _ _ => ⟨"TWR.M00", .ta, 0x108#10, 0x1FC#10, 0⟩
  | .twrM10 _ _ _ => ⟨"TWR.M10", .ta, 0x10C#10, 0x1FC#10, 0⟩
  | .twrCnt1 _ _ _ => ⟨"TWR.CNT1", .ta, 0x110#10, 0x1FC#10, 0⟩
  | .twrRld1 _ _ _ => ⟨"TWR.RLD1", .ta, 0x114#10, 0x1FC#10, 0⟩
  | .twrM01 _ _ _ => ⟨"TWR.M01", .ta, 0x118#10, 0x1FC#10, 0⟩
  | .twrM11 _ _ _ => ⟨"TWR.M11", .ta, 0x11C#10, 0x1FC#10, 0⟩
  | .twrCnt2 _ _ _ => ⟨"TWR.CNT2", .ta, 0x120#10, 0x1FC#10, 0⟩
  | .twrRld2 _ _ _ => ⟨"TWR.RLD2", .ta, 0x124#10, 0x1FC#10, 0⟩
  | .twrM02 _ _ _ => ⟨"TWR.M02", .ta, 0x128#10, 0x1FC#10, 0⟩
  | .twrM12 _ _ _ => ⟨"TWR.M12", .ta, 0x12C#10, 0x1FC#10, 0⟩
  | .twrCtrl _ _ _ => ⟨"TWR.CTRL", .ta, 0x130#10, 0x1FC#10, 0⟩
  | .twrStatus _ _ _ => ⟨"TWR.STATUS", .ta, 0x134#10, 0x1FC#10, 0⟩
  | .twrMask _ _ _ => ⟨"TWR.MASK", .ta, 0x138#10, 0x1FC#10, 0⟩
  | .twrRev _ _ _ => ⟨"TWR.REV", .ta, 0x13C#10, 0x1FC#10, 0⟩
  | .twrOorA _ _ _ => ⟨"TWR.OOR_A", .ta, 0x140#10, 0x1C0#10, 0⟩
  | .twrOorB _ _ _ => ⟨"TWR.OOR_B", .ta, 0x180#10, 0x180#10, 0⟩
  | .crdLast _ _ => ⟨"CRD.LAST", .ca, 0x00C#10, 0x1FC#10, 0⟩
  | .crdBlockA _ _ _ => ⟨"CRD.BLOCK.A", .ca, 0x010#10, 0x1F0#10, 0⟩
  | .crdBlockB _ _ _ => ⟨"CRD.BLOCK.B", .ca, 0x020#10, 0x1E0#10, 0⟩
  | .crdBlockC _ _ _ => ⟨"CRD.BLOCK.C", .ca, 0x040#10, 0x1F0#10, 0⟩
  | .crdState _ _ _ => ⟨"CRD.STATE", .ca, 0x060#10, 0x1E0#10, 0⟩
  | .crdNone _ _ => ⟨"CRD.NONE", .ca, 0x000#10, 0x100#10, 1⟩
  | .cwrCtrl _ _ => ⟨"CWR.CTRL", .ca, 0x100#10, 0x1FF#10, 0⟩
  | .cwrLast _ _ _ => ⟨"CWR.LAST", .ca, 0x10C#10, 0x1FC#10, 0⟩
  | .cwrBlockA _ _ _ _ => ⟨"CWR.BLOCK.A", .ca, 0x110#10, 0x1F0#10, 0⟩
  | .cwrBlockB _ _ _ _ => ⟨"CWR.BLOCK.B", .ca, 0x120#10, 0x1E0#10, 0⟩
  | .cwrBlockC _ _ _ _ => ⟨"CWR.BLOCK.C", .ca, 0x140#10, 0x1F0#10, 0⟩
  | .cwrState _ _ _ _ => ⟨"CWR.STATE", .ca, 0x160#10, 0x1E0#10, 0⟩
  | .cwrNone _ _ _ => ⟨"CWR.NONE", .ca, 0x100#10, 0x100#10, 1⟩
  | .tcycle _ => ⟨"TCYCLE", .ev, 0x000#10, 0x00E#10, 0⟩
  | .treset => ⟨"TRESET", .ev, 0x004#10, 0x00F#10, 0⟩
  | .creset => ⟨"CRESET", .ev, 0x008#10, 0x00F#10, 0⟩

/-- One instruction of every constructor, in the table's order. -/
def oneOfEach : List Instr :=
  [
   .trdCnt0 .normal 0, .trdRld0 .normal 0, .trdM00 .normal 0, .trdM10 .normal 0, .trdCnt1 .normal 0, .trdRld1 .normal 0,
   .trdM01 .normal 0, .trdM11 .normal 0, .trdCnt2 .normal 0, .trdRld2 .normal 0, .trdM02 .normal 0, .trdM12 .normal 0,
   .trdCtrl .normal 0, .trdStatus .normal 0, .trdMask .normal 0, .trdRev .normal 0, .trdOorA .normal 0x40, .trdOorB .normal 0x80,
   .twrCnt0 .normal 0 0, .twrRld0 .normal 0 0, .twrM00 .normal 0 0, .twrM10 .normal 0 0, .twrCnt1 .normal 0 0, .twrRld1 .normal 0 0,
   .twrM01 .normal 0 0, .twrM11 .normal 0 0, .twrCnt2 .normal 0 0, .twrRld2 .normal 0 0, .twrM02 .normal 0 0, .twrM12 .normal 0 0,
   .twrCtrl .normal 0 0, .twrStatus .normal 0 0, .twrMask .normal 0 0, .twrRev .normal 0 0, .twrOorA .normal 0x40 0, .twrOorB .normal 0x80 0,
   .crdLast .inspect 0, .crdBlockA .inspect 0 0, .crdBlockB .inspect 4 0, .crdBlockC .inspect 12 0, .crdState .inspect 0 0, .crdNone .inspect 0x00,
   .cwrCtrl .inspect 0, .cwrLast .inspect 0 0, .cwrBlockA .inspect 0 0 0, .cwrBlockB .inspect 4 0 0, .cwrBlockC .inspect 12 0 0, .cwrState .inspect 0 0 0,
   .cwrNone .inspect 0x01 0, .tcycle false, .treset, .creset
  ]

/-- The 52 rows of spec/opcode_table.json. -/
def opcodeRows : List Row := oneOfEach.map rowOf

/-- The bits of a transaction's word, zero-extended to the widest format, and its format. -/
def wordBits : BusWord → Format × BitVec 10
  | .ta w => (.ta, w.setWidth 10)
  | .ca w => (.ca, w.setWidth 10)
  | .ev w => (.ev, w.setWidth 10)

/-- The row selects the word: `(word & mask) = match` (R92). -/
def rowHits (r : Row) (w : BusWord) : Bool :=
  decide (r.fmt = (wordBits w).1) && decide ((wordBits w).2 &&& r.mask = r.pat)

/-! ## The host's question about a row of the table -/

/-- The transaction whose word has the bits `w` of a table row of `nbits` bits (in whole bytes): one byte is an EV
word, more is a TA word, since the number alone does not say which block a 10-bit word goes to; the operands
outside the word are all zero bits (log entry 2). `none` where `w` has a bit the format does not have. -/
def tableTransaction (nbits w : Nat) : Option Transaction :=
  if nbits ≤ 8 then
    if w < 16 then some ⟨.ev (BitVec.ofNat 4 w), 0#8, noLocks⟩ else none
  else
    if w < 2 ^ (Config.tmrOffBits + 2) then some ⟨.ta (BitVec.ofNat _ w), 0#8, noLocks⟩ else none

/-- The instruction the decoder reads from a table word. -/
def decodeTableWord (nbits w : Nat) : Option Instr :=
  match tableTransaction nbits w with
  | none => none
  | some tx =>
    match decode tx with
    | .ok i => some i
    | .error _ => none

end Sys2Proof
end

