-- ==== Sys2Proof/Machine/State.lean ====
section
/-!
DEFINITION. The state of the two blocks (10_state.md), the model's own host-interface fields, the reset state,
and the reasons a step can stop. Plain data throughout.
-/

namespace Sys2Proof.Machine

/-- Why the machine stops with a fault: never. "No access and no event of either block raises an exception, traps,
stalls or aborts" (R230), so the type has no constructor (log entry 14); nothing raises it, and that is safe. -/
inductive Fault where
  deriving DecidableEq, Repr

/-- Why a step has no meaning. -/
inductive Refusal where
  /-- An instruction with no meaning yet, by its mnemonic; raised by an arm of `exec` (none does). Safe. -/
  | notModelled (mnemonic : String)
  /-- The oldest pending transaction is an EV word that spells no event (R91: "a model refuses it"); raised by
  `step` alone, when the decoder rejects the word. Safe: no hardware behaviour is claimed for it. -/
  | reservedEvent (w : BitVec 4)
  deriving DecidableEq, Repr

/-- The four registers of one timer (R20). -/
structure TimerRegs where
  /-- `cnt[n]`, the live counter (R21). -/
  cnt : Word
  /-- `rld[n]`, the reload value. -/
  rld : Word
  /-- `m0[n]`, match register 0. -/
  m0 : Word
  /-- `m1[n]`, match register 1. -/
  m1 : Word
  deriving DecidableEq, Repr

/-- An entry of `delayStatus`: status bits to be set after `rem` more cycles (R29). -/
structure StatusEntry where
  bits : BitVec 9
  rem : Int
  deriving DecidableEq, Repr

/-- An entry of `delayIntrpt`: interrupt lines to be asserted after `rem` more cycles (R30). -/
structure IntrptEntry where
  lines : BitVec 3
  rem : Int
  deriving DecidableEq, Repr

/-- The TimerBlock (10_state.md section 1). -/
structure TimerBlock where
  /-- The three timers' registers (R20). -/
  timers : Vector TimerRegs 3
  /-- The combined control register (R22). -/
  ctrl : BitVec 12
  /-- The pending interrupt bits (R25, R26). -/
  status : BitVec 9
  /-- The interrupt mask, 1 masks (R27). -/
  mask : BitVec 9
  /-- The read-only revision constant (R28; log entry 11). -/
  revision : Word
  /-- The status delay pipeline, oldest entry first (R29). -/
  delayStatus : List StatusEntry
  /-- The interrupt delay pipeline, oldest entry first (R30). -/
  delayIntrpt : List IntrptEntry
  /-- The interrupt output of each timer (R31). -/
  irq : Vector Bool 3
  deriving DecidableEq, Repr

/-- The CryptoBlock (10_state.md section 2). -/
structure CryptoBlock where
  /-- `H[0..7]`, the hash state (R40). -/
  hash : Vector Word 8
  /-- `B[0..15]`, the message block (R41). -/
  block : Vector Word 16
  /-- The last accessed register index (R42). -/
  last : WordIndex
  deriving DecidableEq, Repr

/-- The one advisory diagnostic (R236). -/
inductive Diagnostic where
  | pipeOverrun
  deriving DecidableEq, Repr

/-- The two blocks, and the host's side of the bus: the transactions it has issued and not yet seen taken, and what
the last transaction answered (the model's own fields; log entries 1, 4, 5). -/
structure State where
  timer : TimerBlock
  crypto : CryptoBlock
  /-- The host's issued transactions, oldest first (R35, R71; log entry 1). -/
  pending : List Transaction
  /-- The byte the last transaction returned, if it was a read (R93; log entry 4). -/
  reply : Option Byte
  /-- The diagnostics the last transaction emitted, in order (R236; log entry 5). -/
  diags : List Diagnostic
  deriving DecidableEq, Repr

/-- A timer's registers after reset (R50). -/
def TimerRegs.reset : TimerRegs := ⟨0, 0, 0, 0⟩

/-- The TimerBlock after reset: "reset zeroes all fields except `revision`" (R50). -/
def TimerBlock.reset (revision : Word) : TimerBlock where
  timers := Vector.replicate 3 TimerRegs.reset
  ctrl := 0
  status := 0
  mask := 0
  revision := revision
  delayStatus := []
  delayIntrpt := []
  irq := Vector.replicate 3 false

/-- The CryptoBlock after reset: "reset clears all fields" (R51). -/
def CryptoBlock.reset : CryptoBlock where
  hash := Vector.replicate 8 0
  block := Vector.replicate 16 0
  last := 0

/-- The power-on state, equal to the reset state (R263): both blocks reset, `revision` at `TMR_REVISION` (R28), no
transaction issued yet. -/
def State.reset : State where
  timer := TimerBlock.reset Config.params.revision
  crypto := CryptoBlock.reset
  pending := []
  reply := none
  diags := []

end Sys2Proof.Machine
end

