-- ==== Sys2Proof/Machine/Operands.lean ====
section
/-!
DEFINITION. The operand forms: byte lanes of a 32-bit register (R10, R63, R93), the fields of `ctrl` (R22, R24),
the registers of the TIMER window (R81, R82) and the words of the CRYPTO window (R181).
-/

namespace Sys2Proof.Machine

/-- `byte(v, k)`: bits `8k+7:8k` of `v` (R10). -/
def byteOf (v : Word) (k : Lane) : Byte := v.extractLsb' (8 * k.toNat) 8

/-- `setbyte(v, k, b)`: `v` with bits `8k+7:8k` replaced by `b` (R10). -/
def setByte (v : Word) (k : Lane) (b : Byte) : Word :=
  (v &&& ~~~((0xFF#32) <<< (8 * k.toNat))) ||| (b.setWidth 32 <<< (8 * k.toNat))

/-! ## Control fields (R22, R24) -/

/-- `EN(n) = ctrl[3n]`. -/
def ctrlEn (ctrl : BitVec 12) (n : TimerIx) : Bool := ctrl.getLsbD (3 * n.val)

/-- `CLK(n) = ctrl[3n+1]`: true selects the alternate clock. -/
def ctrlClk (ctrl : BitVec 12) (n : TimerIx) : Bool := ctrl.getLsbD (3 * n.val + 1)

/-- `OFE(n) = ctrl[3n+2]`: the overflow event is enabled. -/
def ctrlOfe (ctrl : BitVec 12) (n : TimerIx) : Bool := ctrl.getLsbD (3 * n.val + 2)

/-- `UP(n) = ctrl[9+n]`: count up. -/
def ctrlUp (ctrl : BitVec 12) (n : TimerIx) : Bool := ctrl.getLsbD (9 + n.val)

/-! ## Registers of the TIMER window -/

/-- A register slot of the TIMER window (R81, R82), or no register (R83). -/
inductive TimerReg where
  | cnt (n : TimerIx)
  | rld (n : TimerIx)
  | m0 (n : TimerIx)
  | m1 (n : TimerIx)
  | ctrl
  | status
  | mask
  | revision
  | outside
  deriving DecidableEq, Repr

/-- The 32-bit value a read of the slot sees: missing bits read 0 (R23, R26, R27), outside the window 0 (R130). -/
def TimerBlock.slot (t : TimerBlock) : TimerReg → Word
  | .cnt n => t.timers[n].cnt
  | .rld n => t.timers[n].rld
  | .m0 n => t.timers[n].m0
  | .m1 n => t.timers[n].m1
  | .ctrl => t.ctrl.setWidth 32
  | .status => t.status.setWidth 32
  | .mask => t.mask.setWidth 32
  | .revision => t.revision
  | .outside => 0

/-! ## Words of the CRYPTO window -/

/-- `WordAt(idx)`: the 32-bit value a read of a word index sees; the control word and every unmapped index read 0
(R181). -/
def CryptoBlock.wordAt (c : CryptoBlock) (idx : WordIndex) : Word :=
  if idx = Config.lastIdx then c.hash[7]
  else if indexInBlock idx then c.block[(blockWordOf idx).toFin]
  else if indexInState idx then c.hash[(stateWordOf idx).toFin]
  else 0

end Sys2Proof.Machine
end

