-- ==== Sys2Proof/Machine/Flags.lean ====
section
/-!
DEFINITION. The flags of the TimerBlock: the event vector of a count step (R144-R146), a timer's bits of `status`
and `mask` (R25, R27), and the interrupt-line expression (R121, R153).
-/

namespace Sys2Proof.Machine

/-- Bits `3n+2:3n` of `status` or `mask`: timer `n`'s match 0, match 1 and overflow (R25). -/
def timerBits (v : BitVec 9) (n : TimerIx) : BitVec 3 := v.extractLsb' (3 * n.val) 3

/-- `(status[3n+2:3n] & ~mask[3n+2:3n]) != 0` (R121). -/
def TimerBlock.unmasked (t : TimerBlock) (n : TimerIx) : Bool :=
  decide (timerBits t.status n &&& ~~~(timerBits t.mask n) ≠ 0#3)

/-- `IrqRecompute()` (R121). -/
def TimerBlock.irqRecompute (t : TimerBlock) : TimerBlock :=
  { t with irq := Vector.ofFn fun n => t.unmasked n }

/-- What a count step produces: the new counter value and whether the step wraps (R142, R143). -/
structure CountResult where
  nxt : Word
  wrap : Bool
  deriving DecidableEq, Repr

/-- One count step of a counter with its reload value and direction: up wraps from 0xFFFFFFFF, down from 0, and a wrap
loads the reload value (R142, R143). -/
def countStep (up : Bool) (cnt rld : Word) : CountResult :=
  if up then
    if cnt = 0xFFFFFFFF#32 then ⟨rld, true⟩ else ⟨cnt + 1, false⟩
  else
    if cnt = 0x00000000#32 then ⟨rld, true⟩ else ⟨cnt - 1, false⟩

/-- The event vector `ev[2] ++ ev[1] ++ ev[0]`: overflow (gated by `OFE`), match 1, match 0 (R144-R146). -/
def eventVector (ofe : Bool) (m0 m1 : Word) (r : CountResult) : BitVec 3 :=
  BitVec.ofBool (r.wrap && ofe) ++ BitVec.ofBool (decide (r.nxt = m1)) ++ BitVec.ofBool (decide (r.nxt = m0))

/-- The count step of timer `n` (R142, R143). -/
def TimerBlock.countStepOf (t : TimerBlock) (n : TimerIx) : CountResult :=
  countStep (ctrlUp t.ctrl n) t.timers[n].cnt t.timers[n].rld

/-- The event vector of timer `n`'s count step (R146). -/
def TimerBlock.eventsOf (t : TimerBlock) (n : TimerIx) : BitVec 3 :=
  eventVector (ctrlOfe t.ctrl n) t.timers[n].m0 t.timers[n].m1 (t.countStepOf n)

/-- `CountsThisCycle(n, clk1)` (R141). -/
def TimerBlock.countsThisCycle (t : TimerBlock) (clk1 : Bool) (n : TimerIx) : Bool :=
  ctrlEn t.ctrl n && (!ctrlClk t.ctrl n || clk1)

end Sys2Proof.Machine
end

