-- ==== Sys2Proof/Machine/Sha256.lean ====
section
/-!
DEFINITION. The compression function of 42_crypto.md section 4 (R200-R205): SHA-256's, by the spec's decision D27.
-/

namespace Sys2Proof.Machine

/-- `ROTR(x, k) = (x >> k) | (x << (32-k))` (R9). -/
def rotr (x : Word) (k : Nat) : Word := (x >>> k) ||| (x <<< (32 - k))

/-- `Ch` (R200). -/
def shaCh (x y z : Word) : Word := (x &&& y) ^^^ (~~~x &&& z)

/-- `Maj` (R200). -/
def shaMaj (x y z : Word) : Word := (x &&& y) ^^^ (x &&& z) ^^^ (y &&& z)

/-- `S0` (R200). -/
def shaBigS0 (x : Word) : Word := rotr x 2 ^^^ rotr x 13 ^^^ rotr x 22

/-- `S1` (R200). -/
def shaBigS1 (x : Word) : Word := rotr x 6 ^^^ rotr x 11 ^^^ rotr x 25

/-- `s0` (R200). -/
def shaSmallS0 (x : Word) : Word := rotr x 7 ^^^ rotr x 18 ^^^ (x >>> 3)

/-- `s1` (R200). -/
def shaSmallS1 (x : Word) : Word := rotr x 17 ^^^ rotr x 19 ^^^ (x >>> 10)

/-- The round constants `K[0..63]` (R201). -/
def shaK : Vector Word 64 := #v[
  0x428a2f98#32, 0x71374491#32, 0xb5c0fbcf#32, 0xe9b5dba5#32, 0x3956c25b#32, 0x59f111f1#32, 0x923f82a4#32, 0xab1c5ed5#32,
  0xd807aa98#32, 0x12835b01#32, 0x243185be#32, 0x550c7dc3#32, 0x72be5d74#32, 0x80deb1fe#32, 0x9bdc06a7#32, 0xc19bf174#32,
  0xe49b69c1#32, 0xefbe4786#32, 0x0fc19dc6#32, 0x240ca1cc#32, 0x2de92c6f#32, 0x4a7484aa#32, 0x5cb0a9dc#32, 0x76f988da#32,
  0x983e5152#32, 0xa831c66d#32, 0xb00327c8#32, 0xbf597fc7#32, 0xc6e00bf3#32, 0xd5a79147#32, 0x06ca6351#32, 0x14292967#32,
  0x27b70a85#32, 0x2e1b2138#32, 0x4d2c6dfc#32, 0x53380d13#32, 0x650a7354#32, 0x766a0abb#32, 0x81c2c92e#32, 0x92722c85#32,
  0xa2bfe8a1#32, 0xa81a664b#32, 0xc24b8b70#32, 0xc76c51a3#32, 0xd192e819#32, 0xd6990624#32, 0xf40e3585#32, 0x106aa070#32,
  0x19a4c116#32, 0x1e376c08#32, 0x2748774c#32, 0x34b0bcb5#32, 0x391c0cb3#32, 0x4ed8aa4a#32, 0x5b9cca4f#32, 0x682e6ff3#32,
  0x748f82ee#32, 0x78a5636f#32, 0x84c87814#32, 0x8cc70208#32, 0x90befffa#32, 0xa4506ceb#32, 0xbef9a3f7#32, 0xc67178f2#32]

/-- The initial value `IV[0..7]` (R202). -/
def shaIV : Vector Word 8 := #v[
  0x6a09e667#32, 0xbb67ae85#32, 0x3c6ef372#32, 0xa54ff53a#32, 0x510e527f#32, 0x9b05688c#32, 0x1f83d9ab#32, 0x5be0cd19#32]

/-- The next schedule word from the earlier ones, LATEST FIRST (so `W[t-2]` stands at position 1, `W[t-16]` at
position 15): `s1(W[t-2]) + W[t-7] + s0(W[t-15]) + W[t-16]` (R203). -/
def shaNextWord (w : List Word) : Word :=
  shaSmallS1 (w.getD 1 0) + w.getD 6 0 + shaSmallS0 (w.getD 14 0) + w.getD 15 0

/-- The schedule words so far, latest first, extended by `k` more (R203). -/
def shaExtend : Nat → List Word → List Word
  | 0, w => w
  | k + 1, w => shaExtend k (shaNextWord w :: w)

/-- The message schedule `W[0..63]` of a block: `W[t] = B[t]` for `t < 16`, then the recurrence (R203). -/
def shaSchedule (block : Vector Word 16) : List Word := (shaExtend 48 block.toList.reverse).reverse

/-- The working variables `a .. h` (R204). -/
structure ShaVars where
  a : Word
  b : Word
  c : Word
  d : Word
  e : Word
  f : Word
  g : Word
  h : Word
  deriving DecidableEq, Repr

/-- The working variables before round 0: the hash state (R204). -/
def shaStart (hash : Vector Word 8) : ShaVars :=
  ⟨hash[0], hash[1], hash[2], hash[3], hash[4], hash[5], hash[6], hash[7]⟩

/-- One round with its constant and schedule word (R204). -/
def shaRound (k w : Word) (v : ShaVars) : ShaVars :=
  let t1 := v.h + shaBigS1 v.e + shaCh v.e v.f v.g + k + w
  let t2 := shaBigS0 v.a + shaMaj v.a v.b v.c
  { a := t1 + t2, b := v.a, c := v.b, d := v.c, e := v.d + t1, f := v.e, g := v.f, h := v.g }

/-- Rounds in order, one for each pair of a constant and a schedule word (R204). -/
def shaRounds : List (Word × Word) → ShaVars → ShaVars
  | [], v => v
  | (k, w) :: rest, v => shaRounds rest (shaRound k w v)

/-- `SHA256Compress(H, B)` (R205). -/
def shaCompress (hash : Vector Word 8) (block : Vector Word 16) : Vector Word 8 :=
  let v := shaRounds (shaK.toList.zip (shaSchedule block)) (shaStart hash)
  #v[hash[0] + v.a, hash[1] + v.b, hash[2] + v.c, hash[3] + v.d,
     hash[4] + v.e, hash[5] + v.f, hash[6] + v.g, hash[7] + v.h]

end Sys2Proof.Machine
end

