-- ==== Sys2Proof/Machine/Ops.lean ====
section
/-!
DEFINITION. The named operations over the state: answering the host, byte reads and writes of the TIMER window
(40_timer_access.md), gated reads and writes of the CRYPTO window and the control operations (42_crypto.md), the two
resets (70_reset_and_hazards.md). There is no exception to take and none to return from (R230, R235): no operation
of that kind exists in this hardware.
-/

namespace Sys2Proof.Machine

/-- The outcome of a transaction. -/
abbrev Result := Host.Outcome State Fault Refusal

/-! ## Updates of the state -/

/-- The transaction's answer to the host: the byte of a read, the diagnostics emitted (log entries 4, 5). -/
def State.answer (s : State) (reply : Option Byte) (diags : List Diagnostic) : State :=
  { s with reply := reply, diags := diags }

/-- Replace the TimerBlock. -/
def State.setTimer (s : State) (t : TimerBlock) : State := { s with timer := t }

/-- Replace the CryptoBlock. -/
def State.setCrypto (s : State) (c : CryptoBlock) : State := { s with crypto := c }

/-- Take the oldest transaction away, leaving `rest` (log entry 1). -/
def State.setPending (s : State) (rest : List Transaction) : State := { s with pending := rest }

/-! ## The host's side of the bus (log entry 1) -/

/-- The oldest pending transaction, and the state with it taken away; `none` while the host has issued nothing. -/
def State.fetch (s : State) : Option (Transaction × State) :=
  match s.pending with
  | [] => none
  | tx :: rest => some (tx, s.setPending rest)

/-- Put a transaction before every pending one. -/
def State.issueFirst (s : State) (tx : Transaction) : State := s.setPending (tx :: s.pending)

/-- Put the transaction of a table word before every pending one; nothing where there is none (log entry 2). -/
def State.issueTableWord (s : State) (nbits w : Nat) : State :=
  match tableTransaction nbits w with
  | none => s
  | some tx => s.issueFirst tx

/-! ## TIMER accesses -/

/-- Replace timer `n`'s registers. -/
def TimerBlock.setRegs (t : TimerBlock) (n : TimerIx) (r : TimerRegs) : TimerBlock :=
  { t with timers := t.timers.set n r }

/-- Replace timer `n`'s counter. -/
def TimerBlock.setCnt (t : TimerBlock) (n : TimerIx) (v : Word) : TimerBlock :=
  t.setRegs n { t.timers[n] with cnt := v }

/-- The byte write of a register slot: `setbyte` on the per-timer registers (R106-R109), on the existing bits of
`ctrl` (R116) and `mask` (R126, then the interrupt recompute), write-1-to-clear on `status` (R122, then the
recompute), nothing on `revision` (R129) and outside the window (R131). -/
def TimerBlock.writeSlot (t : TimerBlock) (r : TimerReg) (k : Lane) (b : Byte) : TimerBlock :=
  match r with
  | .cnt n => t.setCnt n (setByte t.timers[n].cnt k b)
  | .rld n => t.setRegs n { t.timers[n] with rld := setByte t.timers[n].rld k b }
  | .m0 n => t.setRegs n { t.timers[n] with m0 := setByte t.timers[n].m0 k b }
  | .m1 n => t.setRegs n { t.timers[n] with m1 := setByte t.timers[n].m1 k b }
  | .ctrl => { t with ctrl := (setByte (t.ctrl.setWidth 32) k b).extractLsb' 0 12 }
  | .status =>
    { t with status := t.status &&& ~~~((b.setWidth 32 <<< (8 * k.toNat)).extractLsb' 0 9) }.irqRecompute
  | .mask => { t with mask := (setByte (t.mask.setWidth 32) k b).extractLsb' 0 9 }.irqRecompute
  | .revision => t
  | .outside => t

/-- A TIMER read, normal or peek: the byte goes to the host and nothing of the block changes (R101, R102-R130). -/
def timerRead (r : TimerReg) (k : Lane) (s : State) : Result :=
  .next (s.answer (some (byteOf (s.timer.slot r) k)) [])

/-- A TIMER write, normal or poke (R101, R106-R131). -/
def timerWrite (r : TimerReg) (k : Lane) (b : Byte) (s : State) : Result :=
  .next ((s.setTimer (s.timer.writeSlot r k b)).answer none [])

/-! ## CRYPTO accesses -/

/-- `last <- idx` (R182, R188). -/
def CryptoBlock.record (c : CryptoBlock) (idx : WordIndex) : CryptoBlock := { c with last := idx }

/-- A CRYPTO read of word index `idx`, lane `k`: a peek reads the requested word and changes nothing (R189); an
unlocked read records and reads it (R182); a locked read replays the word `last` names (R183). -/
def cryptoRead (a : Access) (idx : WordIndex) (k : Lane) (s : State) : Result :=
  match a with
  | .inspect => .next (s.answer (some (byteOf (s.crypto.wordAt idx) k)) [])
  | .normal locks =>
    if locks.opAllowed then
      .next ((s.setCrypto (s.crypto.record idx)).answer (some (byteOf (s.crypto.wordAt idx) k)) [])
    else
      .next (s.answer (some (byteOf (s.crypto.wordAt s.crypto.last) k)) [])

/-- A CRYPTO write aimed at word index `idx` with data effect `effect`: a poke has the effect alone (R189); a normal
write records the index, then has the effect unless it is locked (R188). -/
def cryptoWrite (a : Access) (idx : WordIndex) (effect : CryptoBlock → CryptoBlock) (s : State) : Result :=
  match a with
  | .inspect => .next ((s.setCrypto (effect s.crypto)).answer none [])
  | .normal locks =>
    if locks.writeProtected then .next ((s.setCrypto (s.crypto.record idx)).answer none [])
    else .next ((s.setCrypto (effect (s.crypto.record idx))).answer none [])

/-- `B[j] <- setbyte(B[j], k, b)` (R195). -/
def CryptoBlock.writeBlock (c : CryptoBlock) (j : BitVec 4) (k : Lane) (b : Byte) : CryptoBlock :=
  { c with block := c.block.set j.toFin (setByte c.block[j.toFin] k b) }

/-- `ZeroState()` (R192). -/
def CryptoBlock.zeroState (c : CryptoBlock) : CryptoBlock := { c with hash := Vector.replicate 8 0 }

/-- `InitState()` (R193). -/
def CryptoBlock.initState (c : CryptoBlock) : CryptoBlock := { c with hash := shaIV }

/-- `Compress()` (R194). -/
def CryptoBlock.compress (c : CryptoBlock) : CryptoBlock := { c with hash := shaCompress c.hash c.block }

/-- The control byte selects ZERO: `v[4] = 1` (R191). -/
def selectsZero (v : Byte) : Bool := v.getLsbD Config.zeroBit

/-- The control byte matches INIT's pattern (R191). -/
def selectsInit (v : Byte) : Bool := decide (v &&& Config.initMask = Config.initPattern)

/-- The control byte matches COMPRESS's pattern (R191). -/
def selectsCompress (v : Byte) : Bool := decide (v &&& Config.compressMask = Config.compressPattern)

/-- `ControlOp(v)`: ZERO alone, or else INIT and then COMPRESS, each as its pattern selects it (R191). -/
def CryptoBlock.controlOp (c : CryptoBlock) (v : Byte) : CryptoBlock :=
  if selectsZero v then c.zeroState
  else
    let c := if selectsInit v then c.initState else c
    if selectsCompress v then c.compress else c

end Sys2Proof.Machine
end

