-- ==== Sys2Proof/Machine/CryptoAccess.lean ====
section
/-!
DEFINITION. The meanings of the CRYPTO accesses (42_crypto.md), one per row of the table, over the gated read and
write of Machine/Ops.lean (R182, R183, R188, R189).
-/

namespace Sys2Proof.Machine

/-- CRD.LAST (R187). -/
def execCrdLast (a : Access) (k : Lane) (s : State) : Result :=
  cryptoRead a Config.lastIdx k s

/-- CRD.BLOCK.A (R185). -/
def execCrdBlockA (a : Access) (j : BitVec 4) (k : Lane) (s : State) : Result :=
  cryptoRead a (blockIndex j) k s

/-- CRD.BLOCK.B (R185). -/
def execCrdBlockB (a : Access) (j : BitVec 4) (k : Lane) (s : State) : Result :=
  cryptoRead a (blockIndex j) k s

/-- CRD.BLOCK.C (R185). -/
def execCrdBlockC (a : Access) (j : BitVec 4) (k : Lane) (s : State) : Result :=
  cryptoRead a (blockIndex j) k s

/-- CRD.STATE (R186). -/
def execCrdState (a : Access) (j : BitVec 3) (k : Lane) (s : State) : Result :=
  cryptoRead a (stateIndex j) k s

/-- CRD.NONE (R184). -/
def execCrdNone (a : Access) (off : CryptoOffset) (s : State) : Result :=
  cryptoRead a (indexOf off) (laneOf off) s

/-- CWR.CTRL (R190). -/
def execCwrCtrl (a : Access) (v : Byte) (s : State) : Result :=
  cryptoWrite a (indexOf Config.ctrlOff) (fun c => c.controlOp v) s

/-- CWR.LAST (R197): no data effect. -/
def execCwrLast (a : Access) (_k : Lane) (_b : Byte) (s : State) : Result :=
  cryptoWrite a Config.lastIdx id s

/-- CWR.BLOCK.A (R195). -/
def execCwrBlockA (a : Access) (j : BitVec 4) (k : Lane) (b : Byte) (s : State) : Result :=
  cryptoWrite a (blockIndex j) (fun c => c.writeBlock j k b) s

/-- CWR.BLOCK.B (R195). -/
def execCwrBlockB (a : Access) (j : BitVec 4) (k : Lane) (b : Byte) (s : State) : Result :=
  cryptoWrite a (blockIndex j) (fun c => c.writeBlock j k b) s

/-- CWR.BLOCK.C (R195). -/
def execCwrBlockC (a : Access) (j : BitVec 4) (k : Lane) (b : Byte) (s : State) : Result :=
  cryptoWrite a (blockIndex j) (fun c => c.writeBlock j k b) s

/-- CWR.STATE (R196): no data effect. -/
def execCwrState (a : Access) (j : BitVec 3) (_k : Lane) (_b : Byte) (s : State) : Result :=
  cryptoWrite a (stateIndex j) id s

/-- CWR.NONE (R198): no data effect. -/
def execCwrNone (a : Access) (off : CryptoOffset) (_b : Byte) (s : State) : Result :=
  cryptoWrite a (indexOf off) id s

end Sys2Proof.Machine
end

