-- ==== Sys2Proof/Machine/Pipeline.lean ====
section
/-!
DEFINITION. The block cycle of the TimerBlock (41_timer_operation.md): the ageing and maturing of the two delay
pipelines (R150-R153), the count steps in timer order (R140-R147), and the enqueueing of their events (R154-R156).
Everything takes the OPEN parameters as an argument (R7).
-/

namespace Sys2Proof.Machine

/-- One cycle's passing for a status entry (R150). -/
def StatusEntry.age (e : StatusEntry) : StatusEntry := { e with rem := e.rem - 1 }

/-- One cycle's passing for an interrupt entry (R150). -/
def IntrptEntry.age (e : IntrptEntry) : IntrptEntry := { e with rem := e.rem - 1 }

/-- `StatusMature(e)`: `status <- status | e.bits` (R152). -/
def TimerBlock.statusMature (t : TimerBlock) (e : StatusEntry) : TimerBlock :=
  { t with status := t.status ||| e.bits }

/-- `IntrptMature(e)`: each named line takes the value of its expression (R153; log entry 10). -/
def TimerBlock.intrptMature (t : TimerBlock) (e : IntrptEntry) : TimerBlock :=
  { t with irq := Vector.ofFn fun n : Fin 3 => if e.lines.getLsbD n.val then t.unmasked n else t.irq[n] }

/-- The status half of `PipeAge()`: entries age, those that reach 0 mature in order and leave (R150). -/
def TimerBlock.ageStatus (t : TimerBlock) : TimerBlock :=
  let aged := t.delayStatus.map StatusEntry.age
  { (aged.filter (fun e => e.rem == 0)).foldl TimerBlock.statusMature t with
    delayStatus := aged.filter (fun e => e.rem != 0) }

/-- The interrupt half of `PipeAge()` (R150). -/
def TimerBlock.ageIntrpt (t : TimerBlock) : TimerBlock :=
  let aged := t.delayIntrpt.map IntrptEntry.age
  { (aged.filter (fun e => e.rem == 0)).foldl TimerBlock.intrptMature t with
    delayIntrpt := aged.filter (fun e => e.rem != 0) }

/-- `PipeAge()`: first the status pipeline, then the interrupt pipeline (R150). -/
def TimerBlock.pipeAge (t : TimerBlock) : TimerBlock := t.ageStatus.ageIntrpt

/-- A TimerBlock in the middle of a cycle, with the diagnostics emitted so far. -/
structure Ticking where
  block : TimerBlock
  diags : List Diagnostic
  deriving DecidableEq, Repr

/-- `Enqueue(n, ev)` part 1: append to `delayStatus`, or drop the entry and report (R154, R156). -/
def Ticking.pushStatus (x : Ticking) (c : Config) (n : TimerIx) (ev : BitVec 3) : Ticking :=
  if x.block.delayStatus.length < c.pipeCap then
    { x with block := { x.block with
        delayStatus := x.block.delayStatus ++ [⟨ev.setWidth 9 <<< (3 * n.val), c.statusDelay⟩] } }
  else { x with diags := x.diags ++ [.pipeOverrun] }

/-- `Enqueue(n, ev)` part 2: append to `delayIntrpt`, or drop the entry and report (R155, R156). -/
def Ticking.pushIntrpt (x : Ticking) (c : Config) (n : TimerIx) : Ticking :=
  if x.block.delayIntrpt.length < c.pipeCap then
    { x with block := { x.block with
        delayIntrpt := x.block.delayIntrpt ++ [⟨1#3 <<< n.val, c.intrptDelay⟩] } }
  else { x with diags := x.diags ++ [.pipeOverrun] }

/-- `Enqueue(n, ev)`: the status entry, then the interrupt entry (R154, R155). -/
def Ticking.enqueue (x : Ticking) (c : Config) (n : TimerIx) (ev : BitVec 3) : Ticking :=
  (x.pushStatus c n ev).pushIntrpt c n

/-- Timer `n`'s part of phase 2: if it counts in this cycle, its counter takes the step's value, and its events, if
there are any, are enqueued (R140). -/
def Ticking.countTimer (x : Ticking) (c : Config) (clk1 : Bool) (n : TimerIx) : Ticking :=
  if x.block.countsThisCycle clk1 n then
    let ev := x.block.eventsOf n
    let counted := { x with block := x.block.setCnt n (x.block.countStepOf n).nxt }
    if ev ≠ 0#3 then counted.enqueue c n ev else counted
  else x

/-- `TCycle(clk1)`: the pipelines age, then timers 0, 1, 2 in this order (R140). -/
def TimerBlock.cycle (t : TimerBlock) (c : Config) (clk1 : Bool) : Ticking :=
  ((((Ticking.mk t.pipeAge []).countTimer c clk1 0).countTimer c clk1 1).countTimer c clk1 2)

end Sys2Proof.Machine
end

