-- ==== Sys2Proof/Machine/Events.lean ====
section
/-!
DEFINITION. The meanings of the block events: TCYCLE (R140), TRESET (R260), CRESET (R261).
-/

namespace Sys2Proof.Machine

/-- One block cycle under the parameters `c` (R140, R7). -/
def tcycleWith (c : Config) (clk1 : Bool) (s : State) : Result :=
  let x := s.timer.cycle c clk1
  .next ((s.setTimer x.block).answer none x.diags)

/-- TCYCLE: one block cycle of this machine (R140). -/
def execTcycle (clk1 : Bool) (s : State) : Result := tcycleWith Config.params clk1 s

/-- TRESET: every TimerBlock field but `revision` at its reset value, pipelines emptied (R260). -/
def execTreset (s : State) : Result :=
  .next ((s.setTimer (TimerBlock.reset s.timer.revision)).answer none [])

/-- CRESET: every CryptoBlock field at its reset value (R261). -/
def execCreset (s : State) : Result := .next ((s.setCrypto CryptoBlock.reset).answer none [])

end Sys2Proof.Machine
end

