-- ==== Sys2Proof/Machine/TimerAccess.lean ====
section
/-!
DEFINITION. The meanings of the TIMER register accesses (40_timer_access.md), one per row of the table. A peek equals
the normal read and a poke the normal write (R101), so the variant selects nothing.
-/

namespace Sys2Proof.Machine

/-- TRD.CNT0 (R102). -/
def execTrdCnt0 (_p : Variant) (k : Lane) (s : State) : Result :=
  timerRead (.cnt 0) k s

/-- TRD.RLD0 (R103). -/
def execTrdRld0 (_p : Variant) (k : Lane) (s : State) : Result :=
  timerRead (.rld 0) k s

/-- TRD.M00 (R104). -/
def execTrdM00 (_p : Variant) (k : Lane) (s : State) : Result :=
  timerRead (.m0 0) k s

/-- TRD.M10 (R105). -/
def execTrdM10 (_p : Variant) (k : Lane) (s : State) : Result :=
  timerRead (.m1 0) k s

/-- TRD.CNT1 (R102). -/
def execTrdCnt1 (_p : Variant) (k : Lane) (s : State) : Result :=
  timerRead (.cnt 1) k s

/-- TRD.RLD1 (R103). -/
def execTrdRld1 (_p : Variant) (k : Lane) (s : State) : Result :=
  timerRead (.rld 1) k s

/-- TRD.M01 (R104). -/
def execTrdM01 (_p : Variant) (k : Lane) (s : State) : Result :=
  timerRead (.m0 1) k s

/-- TRD.M11 (R105). -/
def execTrdM11 (_p : Variant) (k : Lane) (s : State) : Result :=
  timerRead (.m1 1) k s

/-- TRD.CNT2 (R102). -/
def execTrdCnt2 (_p : Variant) (k : Lane) (s : State) : Result :=
  timerRead (.cnt 2) k s

/-- TRD.RLD2 (R103). -/
def execTrdRld2 (_p : Variant) (k : Lane) (s : State) : Result :=
  timerRead (.rld 2) k s

/-- TRD.M02 (R104). -/
def execTrdM02 (_p : Variant) (k : Lane) (s : State) : Result :=
  timerRead (.m0 2) k s

/-- TRD.M12 (R105). -/
def execTrdM12 (_p : Variant) (k : Lane) (s : State) : Result :=
  timerRead (.m1 2) k s

/-- TRD.CTRL (R115). -/
def execTrdCtrl (_p : Variant) (k : Lane) (s : State) : Result :=
  timerRead .ctrl k s

/-- TRD.STATUS (R120). -/
def execTrdStatus (_p : Variant) (k : Lane) (s : State) : Result :=
  timerRead .status k s

/-- TRD.MASK (R124). -/
def execTrdMask (_p : Variant) (k : Lane) (s : State) : Result :=
  timerRead .mask k s

/-- TRD.REV (R128). -/
def execTrdRev (_p : Variant) (k : Lane) (s : State) : Result :=
  timerRead .revision k s

/-- TRD.OOR_A (R130). -/
def execTrdOorA (_p : Variant) (off : TimerOffset) (s : State) : Result :=
  timerRead .outside (laneOf off) s

/-- TRD.OOR_B (R130). -/
def execTrdOorB (_p : Variant) (off : TimerOffset) (s : State) : Result :=
  timerRead .outside (laneOf off) s

/-- TWR.CNT0 (R106). -/
def execTwrCnt0 (_p : Variant) (k : Lane) (b : Byte) (s : State) : Result :=
  timerWrite (.cnt 0) k b s

/-- TWR.RLD0 (R107). -/
def execTwrRld0 (_p : Variant) (k : Lane) (b : Byte) (s : State) : Result :=
  timerWrite (.rld 0) k b s

/-- TWR.M00 (R108). -/
def execTwrM00 (_p : Variant) (k : Lane) (b : Byte) (s : State) : Result :=
  timerWrite (.m0 0) k b s

/-- TWR.M10 (R109). -/
def execTwrM10 (_p : Variant) (k : Lane) (b : Byte) (s : State) : Result :=
  timerWrite (.m1 0) k b s

/-- TWR.CNT1 (R106). -/
def execTwrCnt1 (_p : Variant) (k : Lane) (b : Byte) (s : State) : Result :=
  timerWrite (.cnt 1) k b s

/-- TWR.RLD1 (R107). -/
def execTwrRld1 (_p : Variant) (k : Lane) (b : Byte) (s : State) : Result :=
  timerWrite (.rld 1) k b s

/-- TWR.M01 (R108). -/
def execTwrM01 (_p : Variant) (k : Lane) (b : Byte) (s : State) : Result :=
  timerWrite (.m0 1) k b s

/-- TWR.M11 (R109). -/
def execTwrM11 (_p : Variant) (k : Lane) (b : Byte) (s : State) : Result :=
  timerWrite (.m1 1) k b s

/-- TWR.CNT2 (R106). -/
def execTwrCnt2 (_p : Variant) (k : Lane) (b : Byte) (s : State) : Result :=
  timerWrite (.cnt 2) k b s

/-- TWR.RLD2 (R107). -/
def execTwrRld2 (_p : Variant) (k : Lane) (b : Byte) (s : State) : Result :=
  timerWrite (.rld 2) k b s

/-- TWR.M02 (R108). -/
def execTwrM02 (_p : Variant) (k : Lane) (b : Byte) (s : State) : Result :=
  timerWrite (.m0 2) k b s

/-- TWR.M12 (R109). -/
def execTwrM12 (_p : Variant) (k : Lane) (b : Byte) (s : State) : Result :=
  timerWrite (.m1 2) k b s

/-- TWR.CTRL (R116). -/
def execTwrCtrl (_p : Variant) (k : Lane) (b : Byte) (s : State) : Result :=
  timerWrite .ctrl k b s

/-- TWR.STATUS (R122). -/
def execTwrStatus (_p : Variant) (k : Lane) (b : Byte) (s : State) : Result :=
  timerWrite .status k b s

/-- TWR.MASK (R126). -/
def execTwrMask (_p : Variant) (k : Lane) (b : Byte) (s : State) : Result :=
  timerWrite .mask k b s

/-- TWR.REV (R129). -/
def execTwrRev (_p : Variant) (k : Lane) (b : Byte) (s : State) : Result :=
  timerWrite .revision k b s

/-- TWR.OOR_A (R131). -/
def execTwrOorA (_p : Variant) (off : TimerOffset) (b : Byte) (s : State) : Result :=
  timerWrite .outside (laneOf off) b s

/-- TWR.OOR_B (R131). -/
def execTwrOorB (_p : Variant) (off : TimerOffset) (b : Byte) (s : State) : Result :=
  timerWrite .outside (laneOf off) b s

end Sys2Proof.Machine
end

