-- ==== Sys2Proof/Machine/Dispatch.lean ====
section
/-! DEFINITION. The one match from an instruction to its meaning. -/

namespace Sys2Proof.Machine

def exec (i : Instr) (s : State) : Host.Outcome State Fault Refusal :=
  match i with
  | .trdCnt0 p k => Sys2Proof.Machine.execTrdCnt0 p k s
  | .trdRld0 p k => Sys2Proof.Machine.execTrdRld0 p k s
  | .trdM00 p k => Sys2Proof.Machine.execTrdM00 p k s
  | .trdM10 p k => Sys2Proof.Machine.execTrdM10 p k s
  | .trdCnt1 p k => Sys2Proof.Machine.execTrdCnt1 p k s
  | .trdRld1 p k => Sys2Proof.Machine.execTrdRld1 p k s
  | .trdM01 p k => Sys2Proof.Machine.execTrdM01 p k s
  | .trdM11 p k => Sys2Proof.Machine.execTrdM11 p k s
  | .trdCnt2 p k => Sys2Proof.Machine.execTrdCnt2 p k s
  | .trdRld2 p k => Sys2Proof.Machine.execTrdRld2 p k s
  | .trdM02 p k => Sys2Proof.Machine.execTrdM02 p k s
  | .trdM12 p k => Sys2Proof.Machine.execTrdM12 p k s
  | .trdCtrl p k => Sys2Proof.Machine.execTrdCtrl p k s
  | .trdStatus p k => Sys2Proof.Machine.execTrdStatus p k s
  | .trdMask p k => Sys2Proof.Machine.execTrdMask p k s
  | .trdRev p k => Sys2Proof.Machine.execTrdRev p k s
  | .trdOorA p off => Sys2Proof.Machine.execTrdOorA p off s
  | .trdOorB p off => Sys2Proof.Machine.execTrdOorB p off s
  | .twrCnt0 p k b => Sys2Proof.Machine.execTwrCnt0 p k b s
  | .twrRld0 p k b => Sys2Proof.Machine.execTwrRld0 p k b s
  | .twrM00 p k b => Sys2Proof.Machine.execTwrM00 p k b s
  | .twrM10 p k b => Sys2Proof.Machine.execTwrM10 p k b s
  | .twrCnt1 p k b => Sys2Proof.Machine.execTwrCnt1 p k b s
  | .twrRld1 p k b => Sys2Proof.Machine.execTwrRld1 p k b s
  | .twrM01 p k b => Sys2Proof.Machine.execTwrM01 p k b s
  | .twrM11 p k b => Sys2Proof.Machine.execTwrM11 p k b s
  | .twrCnt2 p k b => Sys2Proof.Machine.execTwrCnt2 p k b s
  | .twrRld2 p k b => Sys2Proof.Machine.execTwrRld2 p k b s
  | .twrM02 p k b => Sys2Proof.Machine.execTwrM02 p k b s
  | .twrM12 p k b => Sys2Proof.Machine.execTwrM12 p k b s
  | .twrCtrl p k b => Sys2Proof.Machine.execTwrCtrl p k b s
  | .twrStatus p k b => Sys2Proof.Machine.execTwrStatus p k b s
  | .twrMask p k b => Sys2Proof.Machine.execTwrMask p k b s
  | .twrRev p k b => Sys2Proof.Machine.execTwrRev p k b s
  | .twrOorA p off b => Sys2Proof.Machine.execTwrOorA p off b s
  | .twrOorB p off b => Sys2Proof.Machine.execTwrOorB p off b s
  | .crdLast a k => Sys2Proof.Machine.execCrdLast a k s
  | .crdBlockA a j k => Sys2Proof.Machine.execCrdBlockA a j k s
  | .crdBlockB a j k => Sys2Proof.Machine.execCrdBlockB a j k s
  | .crdBlockC a j k => Sys2Proof.Machine.execCrdBlockC a j k s
  | .crdState a j k => Sys2Proof.Machine.execCrdState a j k s
  | .crdNone a off => Sys2Proof.Machine.execCrdNone a off s
  | .cwrCtrl a v => Sys2Proof.Machine.execCwrCtrl a v s
  | .cwrLast a k b => Sys2Proof.Machine.execCwrLast a k b s
  | .cwrBlockA a j k b => Sys2Proof.Machine.execCwrBlockA a j k b s
  | .cwrBlockB a j k b => Sys2Proof.Machine.execCwrBlockB a j k b s
  | .cwrBlockC a j k b => Sys2Proof.Machine.execCwrBlockC a j k b s
  | .cwrState a j k b => Sys2Proof.Machine.execCwrState a j k b s
  | .cwrNone a off b => Sys2Proof.Machine.execCwrNone a off b s
  | .tcycle clk1 => Sys2Proof.Machine.execTcycle clk1 s
  | .treset => Sys2Proof.Machine.execTreset s
  | .creset => Sys2Proof.Machine.execCreset s

end Sys2Proof.Machine
end

