-- ==== Sys2Proof/Machine/Step.lean ====
section
/-! DEFINITION. One step: the oldest pending transaction is taken, decoded and applied (R35, R71). -/

namespace Sys2Proof.Machine

/-- One step. With no transaction issued nothing happens (R2; log entry 3); a word that spells no event is refused
(R91); every other transaction is applied whole. -/
def step (s : State) : Host.Outcome State Fault Refusal :=
  match s.fetch with
  | none => .next s
  | some (tx, s') =>
    match decode tx with
    | .ok i => exec i s'
    | .error (.reservedEvent w) => .refused (.reservedEvent w)

/-- The state with a table word issued as the very next transaction (log entry 2). -/
def State.withFetchWord (s : State) (nbits w : Nat) : State := s.issueTableWord nbits w

end Sys2Proof.Machine
end

