-- ==== Sys2Proof/Machine/Wake.lean ====
section
/-!
DEFINITION. The scheduler contract of a software realisation (R160, R161): the wake time of a timer, and its counter
recomputed from the count steps elapsed. Outputs only: no meaning reads them, and the per-cycle rules are what the
hardware does (D40; log entry 13).
-/

namespace Sys2Proof.Machine

/-- `d_wrap`: count steps until the wrapping step (R160). -/
def wrapDistance (up : Bool) (cnt : Word) : Nat :=
  if up then 2 ^ 32 - cnt.toNat else cnt.toNat + 1

/-- `d_m(m)`: count steps until one produces `m`; `none` is the rule's `inf` (R160). -/
def matchDistance (up : Bool) (cnt rld m : Word) : Option Nat :=
  if up then
    if cnt.toNat < m.toNat then some (m.toNat - cnt.toNat)
    else if rld.toNat ≤ m.toNat then some ((2 ^ 32 - cnt.toNat) + (m.toNat - rld.toNat))
    else none
  else
    if m.toNat < cnt.toNat then some (cnt.toNat - m.toNat)
    else if m.toNat ≤ rld.toNat then some (cnt.toNat + 1 + (rld.toNat - m.toNat))
    else none

/-- The smaller of a distance and one that may be `inf`. -/
def nearer (d : Nat) : Option Nat → Nat
  | none => d
  | some e => min d e

/-- `wake(n)` of an enabled timer, "nearest of: wrap, match0, match1"; a disabled timer has none (R160). -/
def TimerBlock.wakeTime (t : TimerBlock) (n : TimerIx) : Option Nat :=
  let r := t.timers[n]
  let up := ctrlUp t.ctrl n
  if ctrlEn t.ctrl n then
    some (nearer (nearer (wrapDistance up r.cnt) (matchDistance up r.cnt r.rld r.m0)) (matchDistance up r.cnt r.rld r.m1))
  else none

/-- The counter after `k` count steps, recomputed at once from the elapsed steps (R161): the distance left until the
wrapping step, and then the position in the period of R148. -/
def recomputeCounter (up : Bool) (cnt rld : Word) (k : Nat) : Word :=
  if up then
    if k < 2 ^ 32 - cnt.toNat then BitVec.ofNat 32 (cnt.toNat + k)
    else BitVec.ofNat 32 (rld.toNat + (k - (2 ^ 32 - cnt.toNat)) % (2 ^ 32 - rld.toNat))
  else
    if k ≤ cnt.toNat then BitVec.ofNat 32 (cnt.toNat - k)
    else BitVec.ofNat 32 (rld.toNat - (k - cnt.toNat - 1) % (rld.toNat + 1))

end Sys2Proof.Machine
end

