-- ==== Sys2Proof/Safety.lean ====
section
/-!
DEFINITION. The terms claims use: the two windows as the host sees them byte by byte (R84, R86), the TimerBlock's
invariant, and sequences of transactions and of block cycles.
-/

namespace Sys2Proof.Machine

/-! ## The windows, written from the offset maps of R84 and R86 in the numbers of the decided layout -/

/-- The 32-bit slot of the TIMER window an offset lies in, by the map of R84; 0 outside the window (R83). -/
def TimerBlock.windowWord (t : TimerBlock) (off : TimerOffset) : Word :=
  match off.toNat / 4 with
  | 0 => t.timers[0].cnt
  | 1 => t.timers[0].rld
  | 2 => t.timers[0].m0
  | 3 => t.timers[0].m1
  | 4 => t.timers[1].cnt
  | 5 => t.timers[1].rld
  | 6 => t.timers[1].m0
  | 7 => t.timers[1].m1
  | 8 => t.timers[2].cnt
  | 9 => t.timers[2].rld
  | 10 => t.timers[2].m0
  | 11 => t.timers[2].m1
  | 12 => BitVec.ofNat 32 t.ctrl.toNat
  | 13 => BitVec.ofNat 32 t.status.toNat
  | 14 => BitVec.ofNat 32 t.mask.toNat
  | 15 => t.revision
  | _ => 0

/-- The byte of the TIMER window at an offset: bits `8k+7:8k` of its slot, `k = off & 3` (R63). -/
def TimerBlock.windowByte (t : TimerBlock) (off : TimerOffset) : Byte :=
  (t.windowWord off).extractLsb' (8 * (off.toNat % 4)) 8

/-- The word of the CRYPTO window an offset lies in, by the map of R86; 0 where it selects nothing. -/
def CryptoBlock.windowWord (c : CryptoBlock) (off : CryptoOffset) : Word :=
  if 0x0C ≤ off.toNat ∧ off.toNat ≤ 0x0F then c.hash[7]
  else if h : 0x10 ≤ off.toNat ∧ off.toNat ≤ 0x4F then c.block[(off.toNat - 0x10) / 4]'(by omega)
  else if h : 0x60 ≤ off.toNat ∧ off.toNat ≤ 0x7F then c.hash[(off.toNat - 0x60) / 4]'(by omega)
  else 0

/-- The byte of the CRYPTO window at an offset (R63). -/
def CryptoBlock.windowByte (c : CryptoBlock) (off : CryptoOffset) : Byte :=
  (c.windowWord off).extractLsb' (8 * (off.toNat % 4)) 8

/-- A TIMER access as the host issues it (R80): `P`, `W`, the offset, the data byte, the lock inputs. -/
def taTx (p w : Bool) (off : TimerOffset) (b : Byte) (locks : Locks) : Transaction :=
  ⟨.ta (BitVec.ofBool p ++ BitVec.ofBool w ++ off), b, locks⟩

/-- A CRYPTO access as the host issues it (R80). -/
def caTx (p w : Bool) (off : CryptoOffset) (b : Byte) (locks : Locks) : Transaction :=
  ⟨.ca (BitVec.ofBool p ++ BitVec.ofBool w ++ off), b, locks⟩

/-- The transaction goes to the TimerBlock: a TA word, TCYCLE or TRESET; the others go to the CryptoBlock (R80, R89). -/
def onTimer : Instr → Bool
  | .tcycle _ => true
  | .treset => true
  | i => decide ((rowOf i).fmt = .ta)

/-! ## The invariant -/

/-- `rem` never decreases from an entry to the next, so entries mature in the order they were pushed (R151). -/
def remsInOrder (rems : List Int) : Prop := rems.Pairwise (· ≤ ·)

/-- The entry carries the events of one count step of one timer (R146, R154). -/
def StatusEntry.fromOneTimer (e : StatusEntry) : Prop :=
  ∃ (n : TimerIx) (ev : BitVec 3), ev ≠ 0#3 ∧ e.bits = ev.setWidth 9 <<< (3 * n.val)

/-- The entry names one timer's line (R155). -/
def IntrptEntry.oneLine (e : IntrptEntry) : Prop := ∃ n : TimerIx, e.lines = 1#3 <<< n.val

/-- The invariant of the status pipeline: at most `PIPE_CAP` entries (R29), each one timer's events (R154), each due in
1 to `STATUS_DELAY` cycles (R150, R154), in order (R151). -/
def TimerBlock.statusPipeOk (c : Config) (t : TimerBlock) : Prop :=
  t.delayStatus.length ≤ c.pipeCap ∧
  (∀ e ∈ t.delayStatus, e.fromOneTimer ∧ 1 ≤ e.rem ∧ e.rem ≤ c.statusDelay) ∧
  remsInOrder (t.delayStatus.map StatusEntry.rem)

/-- The invariant of the interrupt pipeline (R30, R155, R150, R151). -/
def TimerBlock.intrptPipeOk (c : Config) (t : TimerBlock) : Prop :=
  t.delayIntrpt.length ≤ c.pipeCap ∧
  (∀ e ∈ t.delayIntrpt, e.oneLine ∧ 1 ≤ e.rem ∧ e.rem ≤ c.intrptDelay) ∧
  remsInOrder (t.delayIntrpt.map IntrptEntry.rem)

/-- "`irq[n] = 1` always implies an unmasked pending status bit of timer `n`" (R153). -/
def TimerBlock.irqJustified (t : TimerBlock) : Prop := ∀ n : TimerIx, t.irq[n] = true → t.unmasked n = true

/-- The TimerBlock's invariant under the parameters `c`, with `revision` at `TMR_REVISION` (R28). -/
def TimerBlock.Inv (c : Config) (t : TimerBlock) : Prop :=
  t.revision = c.revision ∧ t.irqJustified ∧ t.statusPipeOk c ∧ t.intrptPipeOk c

/-- The machine's invariant. The CryptoBlock needs none: every value of `H`, `B` and `last` is reached by some
transactions or harmless. -/
def State.Inv (s : State) : Prop := s.timer.Inv Config.params

/-- No more than three entries of either pipeline are due in the same cycle: the three timers push at most one each per
cycle (R156). -/
def TimerBlock.threePerCycle (t : TimerBlock) : Prop :=
  ∀ r : Int, (t.delayStatus.map StatusEntry.rem).count r ≤ 3 ∧ (t.delayIntrpt.map IntrptEntry.rem).count r ≤ 3

/-- The capacity is at least its default, `3 * INTRPT_DELAY` (D14). -/
def pipesRoomy (c : Config) : Prop := 3 * c.intrptDelay ≤ c.pipeCap

/-- A state from which the machine goes on: a step answers a next state. -/
def State.Safe (s : State) : Prop := ∃ t, step s = .next t

/-! ## Sequences -/

/-- Apply instructions in order, stopping at the first that does not answer a next state. -/
def execAll : List Instr → State → Result
  | [], s => .next s
  | i :: rest, s =>
    match exec i s with
    | .next t => execAll rest t
    | .fault r => .fault r
    | .refused r => .refused r

/-- `exec` under any parameters: the block cycle is the one instruction whose meaning depends on them (R7). -/
def execWith (c : Config) : Instr → State → Result
  | .tcycle clk1, s => tcycleWith c clk1 s
  | i, s => exec i s

/-- Block cycles in order, one for each value of `clk1`. -/
def cycles (clks : List Bool) (s : State) : Result := execAll (clks.map Instr.tcycle) s

/-- How many count steps timer `n` makes in these block cycles: one in each whose clock ticks while it is enabled
(R141). -/
def TimerBlock.stepsIn (t : TimerBlock) (clks : List Bool) (n : TimerIx) : Nat :=
  clks.countP fun clk1 => t.ctrl.getLsbD (3 * n.val) && (!t.ctrl.getLsbD (3 * n.val + 1) || clk1)

/-- The entries a pipeline keeps through a cycle's ageing: those not due in it, one cycle older (R150). -/
def TimerBlock.keptStatus (t : TimerBlock) : List StatusEntry :=
  (t.delayStatus.filter fun e => e.rem ≠ 1).map fun e => ⟨e.bits, e.rem - 1⟩

/-- The same for the interrupt pipeline (R150). -/
def TimerBlock.keptIntrpt (t : TimerBlock) : List IntrptEntry :=
  (t.delayIntrpt.filter fun e => e.rem ≠ 1).map fun e => ⟨e.lines, e.rem - 1⟩

/-- The timers that count in a cycle and raise an event in it, in the order 0, 1, 2, with their event vectors (R140,
R141, R146). -/
def TimerBlock.raised (t : TimerBlock) (clk1 : Bool) : List (TimerIx × BitVec 3) :=
  ([0, 1, 2] : List TimerIx).filterMap fun n =>
    if t.countsThisCycle clk1 n ∧ t.eventsOf n ≠ 0#3 then some (n, t.eventsOf n) else none

/-- Block cycles of the TimerBlock under any parameters, diagnostics dropped (R7, R140). -/
def TimerBlock.cycles (c : Config) : List Bool → TimerBlock → TimerBlock
  | [], t => t
  | clk1 :: rest, t => TimerBlock.cycles c rest (t.cycle c clk1).block

end Sys2Proof.Machine
end

