-- ==== Sys2Proof/Certificates/Slice0/Obligations.lean ====
section
/-!
DEFINITION. The statements for the provers. Each docstring names the rules of spec/ it rests on. `pending`, `reply` and
`diags` are the model's own fields, how the host's bus is held (log entries 1, 4, 5): every statement that names one of
them says so.
-/

open Sys2Proof Sys2Proof.Machine

/-! ## Decoding and encoding -/

/-- Decoding the transaction of a well-formed instruction gives the instruction back, whatever its operands (R80-R92). The data byte and
the lock inputs are operands of the transaction (log entry 7). -/
def Obligations.DecodeOfEncodeIsTheInstruction : Prop :=
  ∀ i : Instr, i.wf = true → decode (encode i) = .ok i

/-- Every decoded instruction is well formed and spells exactly the word it was read from, so that no bit of a word is
dropped (R80-R92). -/
def Obligations.DecodedInstructionSpellsItsWord : Prop :=
  ∀ (tx : Transaction) (i : Instr), decode tx = .ok i → i.wf = true ∧ (encode i).word = tx.word

/-- The register maps decode as the match and mask pairs of the opcode table: the decoded instruction's row selects the
word, and any other row that selects it has a higher priority number and is a catch-all; a word no instruction is read
from is selected by no row (R92). -/
def Obligations.OpcodeTableSelectsDecodedRow : Prop :=
  ∀ tx : Transaction,
    match decode tx with
    | .ok i =>
      rowOf i ∈ opcodeRows ∧ rowHits (rowOf i) tx.word = true ∧
      ∀ r ∈ opcodeRows, rowHits r tx.word = true →
        r = rowOf i ∨ ((rowOf i).priority < r.priority ∧ (r = rowOf (.crdNone .inspect 0) ∨ r = rowOf (.cwrNone .inspect 1 0)))
    | .error _ => ∀ r ∈ opcodeRows, rowHits r tx.word = false

/-- Words of 95_test_vectors.md section 2.1, written out, decode to the instructions they stand for. -/
def Obligations.VectorWordsDecode : Prop :=
  ∀ (b : Byte) (locks : Locks),
    decode ⟨.ta 0b0000011011#10, b, locks⟩ = .ok (.trdM01 .normal 3) ∧
    decode ⟨.ta 0b1100110000#10, b, locks⟩ = .ok (.twrCtrl .inspect 0 b) ∧
    decode ⟨.ta 0b0110110100#10, b, locks⟩ = .ok (.twrOorB .normal 0xB4 b) ∧
    decode ⟨.ca 0b0000001111#10, b, locks⟩ = .ok (.crdLast (.normal locks) 3) ∧
    decode ⟨.ca 0b0101001111#10, b, locks⟩ = .ok (.cwrBlockC (.normal locks) 15 3 b) ∧
    decode ⟨.ca 0b0100000001#10, b, locks⟩ = .ok (.cwrNone (.normal locks) 0x01 b) ∧
    decode ⟨.ca 0b0001010000#10, b, locks⟩ = .ok (.crdNone (.normal locks) 0x50) ∧
    decode ⟨.ev 0b0001#4, b, locks⟩ = .ok (.tcycle true) ∧
    decode ⟨.ev 0b1000#4, b, locks⟩ = .ok .creset

/-- An EV word with `code = 0b11`, or `z = 1`, or `c1 = 1` on TRESET or CRESET, is refused by the step, and no other
EV word is (R91, R89, R230).
Holding `pending` this way is the model's choice (log entry 1). -/
def Obligations.ReservedEventWordsAreRefused : Prop :=
  ∀ (s : State) (w : BitVec 4) (b : Byte) (locks : Locks) (rest : List Transaction),
    s.pending = ⟨.ev w, b, locks⟩ :: rest →
    (step s = .refused (.reservedEvent w) ↔
      w.extractLsb' 2 2 = 0b11#2 ∨ w.getLsbD 1 = true ∨
      (w.getLsbD 0 = true ∧ (w.extractLsb' 2 2 = 0b01#2 ∨ w.extractLsb' 2 2 = 0b10#2)))

/-! ## The step -/

/-- A step runs the instruction the oldest pending transaction decodes to, at the state with that transaction taken
away, and adds nothing around it (R35, R71).
Holding `pending` this way is the model's choice (log entry 1). -/
def Obligations.StepRunsTheDecodedTransaction : Prop :=
  ∀ (s : State) (tx : Transaction) (rest : List Transaction) (i : Instr),
    s.pending = tx :: rest → decode tx = .ok i → step s = exec i { s with pending := rest }

/-- While the host has issued nothing, a step changes nothing. The stutter is the model's choice (log entry 3); that
nothing happens without a transaction is R2's. -/
def Obligations.StepWithNothingPendingChangesNothing : Prop :=
  ∀ s : State, s.pending = [] → step s = .next s

/-- Every instruction completes at every state, leaves the host's remaining transactions alone, and answers a byte exactly
when it is a read, that is, when its word's `W` bit is 0 (R230, R71, R93, R80).
Holding `pending` and `reply` this way is the model's choice (log entries 1, 4). -/
def Obligations.EveryInstructionCompletes : Prop :=
  ∀ (i : Instr) (s : State), ∃ t, exec i s = .next t ∧ t.pending = s.pending ∧
    (t.reply.isSome = true ↔
      ∃ w : BitVec 10, w.getLsbD 8 = false ∧ ((encode i).word = .ta w ∨ (encode i).word = .ca w))

/-- Every TA and CA word is a legal transaction: the step takes it and completes (R90, R230).
Holding `pending` this way is the model's choice (log entry 1). -/
def Obligations.EveryAccessWordCompletes : Prop :=
  ∀ (s : State) (w : BitVec 10) (b : Byte) (locks : Locks) (rest : List Transaction),
    (s.pending = ⟨.ta w, b, locks⟩ :: rest ∨ s.pending = ⟨.ca w, b, locks⟩ :: rest) →
    ∃ t, step s = .next t ∧ t.pending = rest

/-! ## TIMER accesses -/

/-- A TIMER read, normal or peek, at any of the 256 offsets answers the byte the offset map gives (R84), 0 outside the
window (R130), and changes nothing of either block (R67, R101-R105, R115, R120, R124).
Holding `pending`, `reply` and `diags` this way is the model's choice (log entries 1, 4, 5). -/
def Obligations.TimerReadAnswersMappedByte : Prop :=
  ∀ (s : State) (p : Bool) (off : TimerOffset) (b : Byte) (locks : Locks) (rest : List Transaction),
    s.pending = taTx p false off b locks :: rest →
    step s = .next { s with pending := rest, reply := some (s.timer.windowByte off), diags := [] }

/-- A byte written to a counter, reload or match register is that byte of the window afterwards, every other byte of the
window reads as before, and nothing else changes: no status bit, no pipeline entry, no interrupt line (R106-R110).
Holding `pending`, `reply` and `diags` this way is the model's choice (log entries 1, 4, 5). -/
def Obligations.TimerRegisterWriteReplacesOneByte : Prop :=
  ∀ (s : State) (p : Bool) (off : TimerOffset) (b : Byte) (locks : Locks) (rest : List Transaction),
    s.pending = taTx p true off b locks :: rest → off.toNat < 0x30 →
    ∃ t, step s = .next t ∧
      (∀ a : TimerOffset, t.timer.windowByte a = if a = off then b else s.timer.windowByte a) ∧
      t.timer.delayStatus = s.timer.delayStatus ∧ t.timer.delayIntrpt = s.timer.delayIntrpt ∧
      t.timer.irq = s.timer.irq ∧ t.crypto = s.crypto ∧ t.pending = rest ∧ t.reply = none ∧ t.diags = []

/-- A write of a byte of `ctrl` replaces that byte's existing bits (11:0 of the slot) and changes nothing else (R116).
Holding `pending`, `reply` and `diags` this way is the model's choice (log entries 1, 4, 5). -/
def Obligations.ControlWriteReplacesExistingBits : Prop :=
  ∀ (s : State) (p : Bool) (off : TimerOffset) (b : Byte) (locks : Locks) (rest : List Transaction),
    s.pending = taTx p true off b locks :: rest → 0x30 ≤ off.toNat → off.toNat ≤ 0x33 →
    ∃ ctrl : BitVec 12,
      step s = .next { s with timer := { s.timer with ctrl := ctrl }, pending := rest, reply := none, diags := [] } ∧
      ∀ i < 12, ctrl.getLsbD i = if i / 8 = off.toNat % 4 then b.getLsbD (i % 8) else s.timer.ctrl.getLsbD i

/-- A write of a byte of `status` clears the status bits where the byte has a 1, keeps the others, sets each line to
whether its timer then has an unmasked pending bit, and changes nothing else (R122, R121).
Holding `pending`, `reply` and `diags` this way is the model's choice (log entries 1, 4, 5). -/
def Obligations.StatusWriteClearsOnes : Prop :=
  ∀ (s : State) (p : Bool) (off : TimerOffset) (b : Byte) (locks : Locks) (rest : List Transaction),
    s.pending = taTx p true off b locks :: rest → 0x34 ≤ off.toNat → off.toNat ≤ 0x37 →
    ∃ (status : BitVec 9) (irq : Vector Bool 3),
      step s = .next { s with timer := { s.timer with status := status, irq := irq }, pending := rest, reply := none, diags := [] } ∧
      (∀ i < 9, status.getLsbD i = (s.timer.status.getLsbD i && !(decide (i / 8 = off.toNat % 4) && b.getLsbD (i % 8)))) ∧
      (∀ n : TimerIx, irq[n] = true ↔ ∃ k < 3, status.getLsbD (3 * n.val + k) = true ∧ s.timer.mask.getLsbD (3 * n.val + k) = false)

/-- A write of a byte of `mask` replaces that byte's existing bits (8:0 of the slot), sets each line to whether its timer
then has an unmasked pending bit, and changes nothing else: `status` is kept (R126, R121, R27).
Holding `pending`, `reply` and `diags` this way is the model's choice (log entries 1, 4, 5). -/
def Obligations.MaskWriteReplacesExistingBits : Prop :=
  ∀ (s : State) (p : Bool) (off : TimerOffset) (b : Byte) (locks : Locks) (rest : List Transaction),
    s.pending = taTx p true off b locks :: rest → 0x38 ≤ off.toNat → off.toNat ≤ 0x3B →
    ∃ (mask : BitVec 9) (irq : Vector Bool 3),
      step s = .next { s with timer := { s.timer with mask := mask, irq := irq }, pending := rest, reply := none, diags := [] } ∧
      (∀ i < 9, mask.getLsbD i = if i / 8 = off.toNat % 4 then b.getLsbD (i % 8) else s.timer.mask.getLsbD i) ∧
      (∀ n : TimerIx, irq[n] = true ↔ ∃ k < 3, s.timer.status.getLsbD (3 * n.val + k) = true ∧ mask.getLsbD (3 * n.val + k) = false)

/-- A write to `revision` or outside the window changes nothing of either block (R129, R131).
Holding `pending`, `reply` and `diags` this way is the model's choice (log entries 1, 4, 5). -/
def Obligations.RevisionAndOutsideWritesAreIgnored : Prop :=
  ∀ (s : State) (p : Bool) (off : TimerOffset) (b : Byte) (locks : Locks) (rest : List Transaction),
    s.pending = taTx p true off b locks :: rest → 0x3C ≤ off.toNat →
    step s = .next { s with pending := rest, reply := none, diags := [] }

/-- A peek is the normal read and changes neither block; a poke is the normal write (R101).
Holding `pending` this way is the model's choice (log entry 1). -/
def Obligations.TimerPeekAndPokeEqualNormal : Prop :=
  ∀ (s : State) (off : TimerOffset) (b : Byte) (locks : Locks) (rest : List Transaction),
    (∀ w : Bool, step { s with pending := taTx true w off b locks :: rest } =
      step { s with pending := taTx false w off b locks :: rest }) ∧
    ∃ t, step { s with pending := taTx true false off b locks :: rest } = .next t ∧ t.timer = s.timer ∧ t.crypto = s.crypto

/-- `revision` is a read-only constant: it is `TMR_REVISION` at power-on, no instruction changes it, and a read of it
answers a byte of it (R28, R50, R128, R263). That it is a field of the state, set
at power-on, is the model's reading (log entry 11).
Holding `reply` this way is the model's choice (log entry 4). -/
def Obligations.RevisionIsReadOnlyConstant : Prop :=
  State.reset.timer.revision = Config.params.revision ∧
  (∀ (i : Instr) (s : State), ∃ t, exec i s = .next t ∧ t.timer.revision = s.timer.revision) ∧
  ∀ (s : State) (p : Variant) (k : Lane), ∃ t, exec (.trdRev p k) s = .next t ∧
    t.reply = some (s.timer.revision.extractLsb' (8 * k.toNat) 8)

/-- Only a block cycle and a TIMER reset change the delay pipelines; every other instruction leaves every entry in place,
emits no diagnostic and sets no status bit (R157, R110).
Holding `diags` this way is the model's choice (log entry 5). -/
def Obligations.OnlyCyclesAndTimerResetMovePipelines : Prop :=
  ∀ (i : Instr) (s : State), (∀ clk1, i ≠ .tcycle clk1) → i ≠ .treset →
    ∃ t, exec i s = .next t ∧ t.timer.delayStatus = s.timer.delayStatus ∧ t.timer.delayIntrpt = s.timer.delayIntrpt ∧
      t.diags = [] ∧ ∀ k < 9, t.timer.status.getLsbD k = true → s.timer.status.getLsbD k = true

/-! ## The block cycle -/

/-- Timer `n` makes one count step exactly when it is enabled and its clock ticks; the step goes down by one and from 0 to
the reload value, or up by one and from 0xFFFFFFFF to the reload value; a timer that does not count holds. Nothing else
of the registers, of `ctrl`, of `mask`, of the CryptoBlock or of the host's transactions changes (R141, R142, R143, R147).
Holding `pending` and `reply` this way is the model's choice (log entries 1, 4). -/
def Obligations.CycleCountsEachTimer : Prop :=
  ∀ (s : State) (clk1 : Bool), ∃ t, exec (.tcycle clk1) s = .next t ∧
    (∀ n : TimerIx,
      t.timer.timers[n] = { s.timer.timers[n] with
        cnt :=
          if s.timer.ctrl.getLsbD (3 * n.val) = true ∧ (s.timer.ctrl.getLsbD (3 * n.val + 1) = false ∨ clk1 = true) then
            if s.timer.ctrl.getLsbD (9 + n.val) = true then
              if s.timer.timers[n].cnt = 0xFFFFFFFF#32 then s.timer.timers[n].rld else s.timer.timers[n].cnt + 1
            else
              if s.timer.timers[n].cnt = 0x00000000#32 then s.timer.timers[n].rld else s.timer.timers[n].cnt - 1
          else s.timer.timers[n].cnt }) ∧
    t.timer.ctrl = s.timer.ctrl ∧ t.timer.mask = s.timer.mask ∧ t.timer.revision = s.timer.revision ∧
    t.crypto = s.crypto ∧ t.pending = s.pending ∧ t.reply = none

/-- The event vector of a count step: bit 0 when the produced value equals match register 0, bit 1 when it equals match
register 1, bit 2 when the step wraps and `OFE` is set (R144, R145, R146). -/
def Obligations.EventVectorBits : Prop :=
  ∀ (t : TimerBlock) (n : TimerIx),
    ((t.eventsOf n).getLsbD 0 = true ↔ (t.countStepOf n).nxt = t.timers[n].m0) ∧
    ((t.eventsOf n).getLsbD 1 = true ↔ (t.countStepOf n).nxt = t.timers[n].m1) ∧
    ((t.eventsOf n).getLsbD 2 = true ↔ t.ctrl.getLsbD (3 * n.val + 2) = true ∧
      ((t.ctrl.getLsbD (9 + n.val) = true ∧ t.timers[n].cnt = 0xFFFFFFFF#32) ∨
        (t.ctrl.getLsbD (9 + n.val) = false ∧ t.timers[n].cnt = 0x00000000#32)))

/-- After a cycle a status bit is set exactly when it was set before or an entry due in this cycle carries it (R150,
R152). -/
def Obligations.CycleMergesDueStatusEntries : Prop :=
  ∀ (s : State) (clk1 : Bool), ∃ t, exec (.tcycle clk1) s = .next t ∧
    ∀ k < 9, (t.timer.status.getLsbD k = true ↔
      s.timer.status.getLsbD k = true ∨ ∃ e ∈ s.timer.delayStatus, e.rem = 1 ∧ e.bits.getLsbD k = true)

/-- After a cycle a line named by an interrupt entry due in this cycle is at whether its timer has an unmasked pending
status bit, the bits that matured in this cycle included; every other line is as before (R150, R153). That a due entry
assigns its line the expression, and so would lower a line that is asserted with no unmasked pending bit, is the model's
reading of R153 (log entry 10: its pseudocode; its prose differs where the invariant fails, in states no run reaches). -/
def Obligations.CycleSettlesDueInterruptLines : Prop :=
  ∀ (s : State) (clk1 : Bool), ∃ t, exec (.tcycle clk1) s = .next t ∧
    ∀ n : TimerIx,
      ((∃ e ∈ s.timer.delayIntrpt, e.rem = 1 ∧ e.lines.getLsbD n.val = true) →
        (t.timer.irq[n] = true ↔ ∃ k < 3, t.timer.status.getLsbD (3 * n.val + k) = true ∧ t.timer.mask.getLsbD (3 * n.val + k) = false)) ∧
      ((∀ e ∈ s.timer.delayIntrpt, e.rem = 1 → e.lines.getLsbD n.val = false) → t.timer.irq[n] = s.timer.irq[n])

/-- After a cycle each pipeline holds the entries not yet due, one cycle older, and behind them, in timer order, one new
entry for each timer that raised events, as far as `PIPE_CAP` has room; each dropped entry is one diagnostic (R140, R150,
R154, R155, R156).
Holding `diags` this way is the model's choice (log entry 5). -/
def Obligations.CycleEnqueuesEventsUpToCapacity : Prop :=
  ∀ (s : State) (clk1 : Bool), ∃ t, exec (.tcycle clk1) s = .next t ∧
    let c := Config.params
    let new := s.timer.raised clk1
    let roomS := c.pipeCap - s.timer.keptStatus.length
    let roomI := c.pipeCap - s.timer.keptIntrpt.length
    t.timer.delayStatus = s.timer.keptStatus ++
      (new.take roomS).map (fun x => ⟨x.2.setWidth 9 <<< (3 * x.1.val), (c.statusDelay : Int)⟩) ∧
    t.timer.delayIntrpt = s.timer.keptIntrpt ++
      (new.take roomI).map (fun x => ⟨1#3 <<< x.1.val, (c.intrptDelay : Int)⟩) ∧
    t.diags = List.replicate ((new.length - roomS) + (new.length - roomI)) .pipeOverrun

/-- A status bit is set by nothing but a due entry in a block cycle, and cleared by nothing but a 1 written to it or a
TIMER reset (R26). -/
def Obligations.StatusBitsChangeOnlyAsStated : Prop :=
  ∀ (i : Instr) (s : State), ∃ t, exec i s = .next t ∧ ∀ k < 9,
    (s.timer.status.getLsbD k = false → t.timer.status.getLsbD k = true →
      (∃ clk1, i = .tcycle clk1) ∧ ∃ e ∈ s.timer.delayStatus, e.rem = 1 ∧ e.bits.getLsbD k = true) ∧
    (s.timer.status.getLsbD k = true → t.timer.status.getLsbD k = false →
      i = .treset ∨ ∃ p lane b, i = .twrStatus p lane b ∧ lane.toNat = k / 8 ∧ b.getLsbD (k % 8) = true)

/-- An interrupt line is a level: once asserted it stays asserted until its timer has no unmasked pending bit left
(R232). -/
def Obligations.InterruptLineIsLevel : Prop :=
  ∀ (i : Instr) (s : State) (n : TimerIx), s.timer.irqJustified → s.timer.irq[n] = true →
    ∃ t, exec i s = .next t ∧
      (t.timer.irq[n] = false → ∀ k < 3, t.timer.status.getLsbD (3 * n.val + k) = true → t.timer.mask.getLsbD (3 * n.val + k) = true)

/-- Every step keeps the invariant: `revision` at its constant (R28), every asserted line justified (R153), both pipelines
within `PIPE_CAP`, well formed, due within their delays and in order (R29, R30, R151, R154, R155). That
`revision` is a field at its constant and that entries are due in one cycle or more are the model's readings (log entries
11, 9). -/
def Obligations.InvariantKeptByEveryStep : Prop :=
  ∀ s t : State, s.Inv → step s = .next t → t.Inv

/-- The reset state meets the invariant (R50, R28), with `revision` a field set at power-on (log entry 11). -/
def Obligations.ResetMeetsInvariant : Prop := State.reset.Inv

/-- No overrun: under any parameters whose `PIPE_CAP` is at least the default `3 * INTRPT_DELAY`, the reset block meets
"the invariant, and no more than three entries of a pipeline due in the same cycle", every instruction keeps it, and
none reports a dropped entry, from every state that meets it; so no run from reset does. With this machine's parameters
the instructions are those of `exec` (R156). That `revision` stays at its constant and where a diagnostic stands are the
model's (log entries 11, 5). -/
def Obligations.DefaultCapacityNeverOverruns : Prop :=
  (∀ (i : Instr) (s : State), execWith Config.params i s = exec i s) ∧
  ∀ c : Config, pipesRoomy c →
    ((TimerBlock.reset c.revision).Inv c ∧ (TimerBlock.reset c.revision).threePerCycle) ∧
    ∀ (i : Instr) (s : State), s.timer.Inv c → s.timer.threePerCycle →
      ∃ t, execWith c i s = .next t ∧ t.diags = [] ∧ t.timer.Inv c ∧ t.timer.threePerCycle

/-- The period: a timer starting from its reload value `R` counts down through `R - k` after `k` count steps, makes its
wrapping step as the `R + 1`-th, and is at `R` again; counting up it goes through `R + k` and is back after `2^32 - R`
steps, the last of them wrapping. Count steps, not cycles, so on either clock (R148, R141-R143). -/
def Obligations.CounterPeriod : Prop :=
  ∀ (s : State) (n : TimerIx) (clks : List Bool) (R : Word),
    s.timer.timers[n].cnt = R → s.timer.timers[n].rld = R →
    ∃ t, cycles clks s = .next t ∧
      let k := s.timer.stepsIn clks n
      (ctrlUp s.timer.ctrl n = false → k ≤ R.toNat →
        t.timer.timers[n].cnt.toNat = R.toNat - k ∧ ((t.timer.countStepOf n).wrap = true ↔ k = R.toNat)) ∧
      (ctrlUp s.timer.ctrl n = false → k = R.toNat + 1 → t.timer.timers[n].cnt = R) ∧
      (ctrlUp s.timer.ctrl n = true → k < 2 ^ 32 - R.toNat →
        t.timer.timers[n].cnt.toNat = R.toNat + k ∧ ((t.timer.countStepOf n).wrap = true ↔ k + 1 = 2 ^ 32 - R.toNat)) ∧
      (ctrlUp s.timer.ctrl n = true → k = 2 ^ 32 - R.toNat → t.timer.timers[n].cnt = R)

/-- No drift: the counter recomputed at once from the number of elapsed count steps is the counter that executing every
cycle gives, for either direction and either clock (R161, R21, R141-R143). R161 gives no formula: the closed form
`recomputeCounter` is the model's, from the period of R148 (log entry 13). -/
def Obligations.RecomputedCounterEqualsCycleByCycle : Prop :=
  ∀ (s : State) (n : TimerIx) (clks : List Bool),
    ∃ t, cycles clks s = .next t ∧
      t.timer.timers[n].cnt = recomputeCounter (ctrlUp s.timer.ctrl n) s.timer.timers[n].cnt s.timer.timers[n].rld
        (s.timer.stepsIn clks n)

/-- The wake time of an enabled timer, on either clock, is the number of the first count step that wraps or produces a
match value: after any fewer count steps, the next one is such a boundary exactly when it is that one (R160, R141-R144).
That the wake time is a function of the state and no state of its own is the model's reading (log entry 13). -/
def Obligations.WakeTimeIsFirstBoundary : Prop :=
  ∀ (s : State) (n : TimerIx) (clks : List Bool) (d : Nat),
    s.timer.wakeTime n = some d → s.timer.stepsIn clks n < d →
    ∃ t, cycles clks s = .next t ∧
      (((t.timer.countStepOf n).wrap = true ∨ (t.timer.countStepOf n).nxt = s.timer.timers[n].m0 ∨
          (t.timer.countStepOf n).nxt = s.timer.timers[n].m1) ↔
        s.timer.stepsIn clks n + 1 = d)

/-- A match value at infinite distance is never produced, however many cycles run: the misconfigured timer "never fires"
(R149, R160). -/
def Obligations.UnreachableMatchNeverFires : Prop :=
  ∀ (s : State) (n : TimerIx) (m : Word) (clks : List Bool),
    matchDistance (ctrlUp s.timer.ctrl n) s.timer.timers[n].cnt s.timer.timers[n].rld m = none →
    ∃ t, cycles clks s = .next t ∧ (t.timer.countStepOf n).nxt ≠ m

/-- An entry due in `r` cycles has its bits in `status` after `r` cycles with no access between (R152, R158). -/
def Obligations.DueStatusEntryBecomesVisible : Prop :=
  ∀ (s : State) (e : StatusEntry) (clks : List Bool),
    e ∈ s.timer.delayStatus → 1 ≤ e.rem → (clks.length : Int) = e.rem →
    ∃ t, cycles clks s = .next t ∧ ∀ k < 9, e.bits.getLsbD k = true → t.timer.status.getLsbD k = true

/-- While no entry is due yet, and for no more than `STATUS_DELAY` cycles, `status` keeps its value, whatever events the
cycles raise (R158, R268). -/
def Obligations.StatusWaitsForDelay : Prop :=
  ∀ (s : State) (clks : List Bool),
    (∀ e ∈ s.timer.delayStatus, (clks.length : Int) < e.rem) → clks.length ≤ Config.params.statusDelay →
    ∃ t, cycles clks s = .next t ∧ t.timer.status = s.timer.status

/-- While no interrupt entry is due yet, and for no more than `INTRPT_DELAY` cycles, every line keeps its value (R158,
R268). -/
def Obligations.InterruptLinesWaitForDelay : Prop :=
  ∀ (s : State) (clks : List Bool),
    (∀ e ∈ s.timer.delayIntrpt, (clks.length : Int) < e.rem) → clks.length ≤ Config.params.intrptDelay →
    ∃ t, cycles clks s = .next t ∧ t.timer.irq = s.timer.irq

/-! ## CRYPTO accesses -/

/-- An unlocked normal read at any offset answers the byte the map of R86 gives, records the word index in `last`, and
changes nothing else (R181, R182, R184-R187).
Holding `pending`, `reply` and `diags` this way is the model's choice (log entries 1, 4, 5). -/
def Obligations.UnlockedCryptoReadAnswersMappedByte : Prop :=
  ∀ (s : State) (off : CryptoOffset) (b : Byte) (locks : Locks) (rest : List Transaction),
    s.pending = caTx false false off b locks :: rest → locks.opAllowed = true →
    step s = .next { s with
      crypto := { s.crypto with last := off.extractLsb' 2 6 }
      pending := rest, reply := some (s.crypto.windowByte off), diags := [] }

/-- A locked normal read answers the byte, at the current lane, of the word `last` names, whatever offset it asks for, and
leaves `last` and everything else unchanged (R183).
Holding `pending`, `reply` and `diags` this way is the model's choice (log entries 1, 4, 5). -/
def Obligations.LockedCryptoReadReplaysLast : Prop :=
  ∀ (s : State) (off : CryptoOffset) (b : Byte) (locks : Locks) (rest : List Transaction),
    s.pending = caTx false false off b locks :: rest → locks.opAllowed = false →
    step s = .next { s with
      pending := rest, reply := some (s.crypto.windowByte (s.crypto.last ++ off.extractLsb' 0 2)), diags := [] }

/-- A peek answers the byte of the requested offset whatever the lock inputs are and changes neither block (R189, R67).
Holding `pending`, `reply` and `diags` this way is the model's choice (log entries 1, 4, 5). -/
def Obligations.CryptoPeekBypassesLock : Prop :=
  ∀ (s : State) (off : CryptoOffset) (b : Byte) (locks : Locks) (rest : List Transaction),
    s.pending = caTx true false off b locks :: rest →
    step s = .next { s with pending := rest, reply := some (s.crypto.windowByte off), diags := [] }

/-- A normal write under write protection is dropped: it records its index in `last`, and nothing else of either block
changes, whatever the offset and the byte, a control byte included, and no diagnostic is emitted (R188, R270).
Holding `pending`, `reply` and `diags` this way is the model's choice (log entries 1, 4, 5). -/
def Obligations.LockedCryptoWriteIsDropped : Prop :=
  ∀ (s : State) (off : CryptoOffset) (b : Byte) (locks : Locks) (rest : List Transaction),
    s.pending = caTx false true off b locks :: rest → locks.writeProtected = true →
    step s = .next { s with
      crypto := { s.crypto with last := off.extractLsb' 2 6 }, pending := rest, reply := none, diags := [] }

/-- A poke, or an unlocked normal write, of a message-block byte makes it that byte of the window; every other byte of the
window reads as before; `last` takes the index on a normal write and is kept by a poke (R195, R188, R189).
Holding `pending`, `reply` and `diags` this way is the model's choice (log entries 1, 4, 5). -/
def Obligations.BlockWriteReplacesOneByte : Prop :=
  ∀ (s : State) (p : Bool) (off : CryptoOffset) (b : Byte) (locks : Locks) (rest : List Transaction),
    s.pending = caTx p true off b locks :: rest → 0x10 ≤ off.toNat → off.toNat ≤ 0x4F →
    (p = true ∨ locks.writeProtected = false) →
    ∃ t, step s = .next t ∧
      (∀ a : CryptoOffset, t.crypto.windowByte a = if a = off then b else s.crypto.windowByte a) ∧
      t.crypto.last = (if p = true then s.crypto.last else off.extractLsb' 2 6) ∧
      t.timer = s.timer ∧ t.pending = rest ∧ t.reply = none ∧ t.diags = []

/-- A poke or an unlocked normal write of any offset that is neither the control byte nor in the message block has no data
effect: only a normal write's `last` changes (R196, R197, R198, R87).
Holding `pending`, `reply` and `diags` this way is the model's choice (log entries 1, 4, 5). -/
def Obligations.OtherCryptoWritesOnlyRecord : Prop :=
  ∀ (s : State) (p : Bool) (off : CryptoOffset) (b : Byte) (locks : Locks) (rest : List Transaction),
    s.pending = caTx p true off b locks :: rest → off.toNat ≠ 0x00 → (off.toNat < 0x10 ∨ 0x50 ≤ off.toNat) →
    (p = true ∨ locks.writeProtected = false) →
    step s = .next { s with
      crypto := { s.crypto with last := if p = true then s.crypto.last else off.extractLsb' 2 6 }
      pending := rest, reply := none, diags := [] }

/-- The control byte's table, for a poke or an unlocked normal write: ZERO alone when bit 4 is set; else INIT then COMPRESS
for 0xA and 0xB, COMPRESS for 0xE and 0xF, nothing for the rest; bits 7:5 never matter; the message block is never
changed, and the result stands when the write is over (R88, R188-R194).
Holding `pending`, `reply` and `diags` this way is the model's choice (log entries 1, 4, 5). -/
def Obligations.ControlByteSelectsOperations : Prop :=
  ∀ (s : State) (p : Bool) (v : Byte) (locks : Locks) (rest : List Transaction),
    s.pending = caTx p true 0x00#8 v locks :: rest → (p = true ∨ locks.writeProtected = false) →
    step s = .next { s with
      crypto := { s.crypto with
        hash :=
          if v.getLsbD 4 = true then #v[0, 0, 0, 0, 0, 0, 0, 0]
          else if v.extractLsb' 0 4 = 0xA#4 ∨ v.extractLsb' 0 4 = 0xB#4 then shaCompress shaIV s.crypto.block
          else if v.extractLsb' 0 4 = 0xE#4 ∨ v.extractLsb' 0 4 = 0xF#4 then shaCompress s.crypto.hash s.crypto.block
          else s.crypto.hash
        last := if p = true then s.crypto.last else 0 }
      pending := rest, reply := none, diags := [] }

/-- The hash state is written by control operations and reset alone, the message block by block writes and reset alone
(R40, R41). -/
def Obligations.HashAndBlockHaveTheirOwnWriters : Prop :=
  ∀ (i : Instr) (s : State), ∃ t, exec i s = .next t ∧
    (t.crypto.hash ≠ s.crypto.hash → i = .creset ∨ ∃ a v, i = .cwrCtrl a v) ∧
    (t.crypto.block ≠ s.crypto.block →
      i = .creset ∨ ∃ a j k b, i = .cwrBlockA a j k b ∨ i = .cwrBlockB a j k b ∨ i = .cwrBlockC a j k b)

/-- `last` is never written by a peek or a poke: a CRYPTO transaction with `P = 1` keeps it, whatever the offset, the
direction and the lock inputs (R42, R189).
Holding `pending` this way is the model's choice (log entry 1). -/
def Obligations.PeekAndPokeKeepLast : Prop :=
  ∀ (s : State) (w : Bool) (off : CryptoOffset) (b : Byte) (locks : Locks) (rest : List Transaction),
    s.pending = caTx true w off b locks :: rest →
    ∃ t, step s = .next t ∧ t.crypto.last = s.crypto.last ∧ t.timer = s.timer

/-- Under the lock a normal read tells nothing but the word `last` names: two machines that agree on that word answer every
locked read alike, even of different words, at the same lane (R183, R269).
Holding `pending` and `reply` this way is the model's choice (log entries 1, 4). -/
def Obligations.LockedReadsRevealOnlyTheLastWord : Prop :=
  ∀ (s s' : State) (off off' : CryptoOffset) (b b' : Byte) (locks locks' : Locks) (rest rest' : List Transaction),
    s.pending = caTx false false off b locks :: rest → s'.pending = caTx false false off' b' locks' :: rest' →
    locks.opAllowed = false → locks'.opAllowed = false → off.extractLsb' 0 2 = off'.extractLsb' 0 2 →
    s.crypto.windowWord (s.crypto.last ++ 0#2) = s'.crypto.windowWord (s'.crypto.last ++ 0#2) →
    ∃ t t', step s = .next t ∧ step s' = .next t' ∧ t.reply = t'.reply

/-! ## The compression function -/

/-- The message schedule has 64 words: the block's, and then the recurrence (R203). -/
def Obligations.MessageScheduleFollowsRecurrence : Prop :=
  ∀ block : Vector Word 16,
    (shaSchedule block).length = 64 ∧
    (∀ t : Fin 16, (shaSchedule block)[t.val]? = some block[t]) ∧
    ∀ t, 16 ≤ t → t < 64 →
      (shaSchedule block).getD t 0 =
        shaSmallS1 ((shaSchedule block).getD (t - 2) 0) + (shaSchedule block).getD (t - 7) 0 +
        shaSmallS0 ((shaSchedule block).getD (t - 15) 0) + (shaSchedule block).getD (t - 16) 0

/-- The compression is sixty-four rounds of the working variables from the hash state, with `K[t]` and `W[t]` in round `t`,
and the final addition (R204, R205). -/
def Obligations.CompressionIsSixtyFourRounds : Prop :=
  ∀ (hash : Vector Word 8) (block : Vector Word 16) (v : Nat → ShaVars),
    v 0 = ⟨hash[0], hash[1], hash[2], hash[3], hash[4], hash[5], hash[6], hash[7]⟩ →
    (∀ t : Fin 64,
      let x := v t.val
      let t1 := x.h + shaBigS1 x.e + shaCh x.e x.f x.g + shaK[t] + (shaSchedule block).getD t.val 0
      let t2 := shaBigS0 x.a + shaMaj x.a x.b x.c
      v (t.val + 1) = ⟨t1 + t2, x.a, x.b, x.c, x.d + t1, x.e, x.f, x.g⟩) →
    shaCompress hash block =
      #v[hash[0] + (v 64).a, hash[1] + (v 64).b, hash[2] + (v 64).c, hash[3] + (v 64).d,
         hash[4] + (v 64).e, hash[5] + (v 64).f, hash[6] + (v 64).g, hash[7] + (v 64).h]

/-- The functions of the compression bit by bit: bit `i` of `ROTR(x, k)` is bit `i + k` of `x`, modulo 32; `Ch`, `Maj`,
`S0`, `S1`, `s0` and `s1` combine the bits the rule names, `s0` and `s1` with 0 above the top bit of the shift (R200, R9). -/
def Obligations.ShaFunctionsBitByBit : Prop :=
  ∀ (x y z : Word) (i : Nat), i < 32 →
    let r := fun k : Nat => x.getLsbD ((i + k) % 32)
    (∀ k < 32, (rotr x k).getLsbD i = r k) ∧
    (shaCh x y z).getLsbD i = ((x.getLsbD i && y.getLsbD i) ^^ (!x.getLsbD i && z.getLsbD i)) ∧
    (shaMaj x y z).getLsbD i =
      ((x.getLsbD i && y.getLsbD i) ^^ (x.getLsbD i && z.getLsbD i) ^^ (y.getLsbD i && z.getLsbD i)) ∧
    (shaBigS0 x).getLsbD i = (r 2 ^^ r 13 ^^ r 22) ∧
    (shaBigS1 x).getLsbD i = (r 6 ^^ r 11 ^^ r 25) ∧
    (shaSmallS0 x).getLsbD i = (r 7 ^^ r 18 ^^ (decide (i + 3 < 32) && x.getLsbD (i + 3))) ∧
    (shaSmallS1 x).getLsbD i = (r 17 ^^ r 19 ^^ (decide (i + 10 < 32) && x.getLsbD (i + 10)))

/-- The round constants and the initial value: the tables, and the definition the rules give of each entry: `K[t]` is the
first 32 bits of the fractional part of the cube root of the `t+1`-th prime, `IV[j]` of the square root of the `j+1`-th
(R201, R202). `n` is the whole part of the root scaled by `2^32`; `p` is the prime with `t` primes below it. -/
def Obligations.ShaConstantsAreRootsOfPrimes : Prop :=
  shaK.toList =
    [0x428a2f98#32, 0x71374491#32, 0xb5c0fbcf#32, 0xe9b5dba5#32, 0x3956c25b#32, 0x59f111f1#32, 0x923f82a4#32, 0xab1c5ed5#32,
     0xd807aa98#32, 0x12835b01#32, 0x243185be#32, 0x550c7dc3#32, 0x72be5d74#32, 0x80deb1fe#32, 0x9bdc06a7#32, 0xc19bf174#32,
     0xe49b69c1#32, 0xefbe4786#32, 0x0fc19dc6#32, 0x240ca1cc#32, 0x2de92c6f#32, 0x4a7484aa#32, 0x5cb0a9dc#32, 0x76f988da#32,
     0x983e5152#32, 0xa831c66d#32, 0xb00327c8#32, 0xbf597fc7#32, 0xc6e00bf3#32, 0xd5a79147#32, 0x06ca6351#32, 0x14292967#32,
     0x27b70a85#32, 0x2e1b2138#32, 0x4d2c6dfc#32, 0x53380d13#32, 0x650a7354#32, 0x766a0abb#32, 0x81c2c92e#32, 0x92722c85#32,
     0xa2bfe8a1#32, 0xa81a664b#32, 0xc24b8b70#32, 0xc76c51a3#32, 0xd192e819#32, 0xd6990624#32, 0xf40e3585#32, 0x106aa070#32,
     0x19a4c116#32, 0x1e376c08#32, 0x2748774c#32, 0x34b0bcb5#32, 0x391c0cb3#32, 0x4ed8aa4a#32, 0x5b9cca4f#32, 0x682e6ff3#32,
     0x748f82ee#32, 0x78a5636f#32, 0x84c87814#32, 0x8cc70208#32, 0x90befffa#32, 0xa4506ceb#32, 0xbef9a3f7#32, 0xc67178f2#32] ∧
  shaIV.toList =
    [0x6a09e667#32, 0xbb67ae85#32, 0x3c6ef372#32, 0xa54ff53a#32, 0x510e527f#32, 0x9b05688c#32, 0x1f83d9ab#32, 0x5be0cd19#32] ∧
  (∀ t : Fin 64, ∃ p n : Nat, p.Prime ∧ Nat.count Nat.Prime p = t.val ∧
    n ^ 3 ≤ p * 2 ^ 96 ∧ p * 2 ^ 96 < (n + 1) ^ 3 ∧ shaK[t].toNat = n % 2 ^ 32) ∧
  (∀ j : Fin 8, ∃ p n : Nat, p.Prime ∧ Nat.count Nat.Prime p = j.val ∧
    n ^ 2 ≤ p * 2 ^ 64 ∧ p * 2 ^ 64 < (n + 1) ^ 2 ∧ shaIV[j].toNat = n % 2 ^ 32)

/-! ## Reset and the two blocks together -/

/-- TRESET zeroes every TimerBlock field but `revision`, empties both pipelines, and leaves the CryptoBlock alone (R260).
Holding `pending`, `reply` and `diags` this way is the model's choice (log entries 1, 4, 5). -/
def Obligations.TimerResetZeroesTimerBlock : Prop :=
  ∀ s : State, ∃ t, exec .treset s = .next t ∧
    (∀ n : TimerIx, t.timer.timers[n].cnt = 0 ∧ t.timer.timers[n].rld = 0 ∧ t.timer.timers[n].m0 = 0 ∧
      t.timer.timers[n].m1 = 0 ∧ t.timer.irq[n] = false) ∧
    t.timer.ctrl = 0 ∧ t.timer.status = 0 ∧ t.timer.mask = 0 ∧ t.timer.revision = s.timer.revision ∧
    t.timer.delayStatus = [] ∧ t.timer.delayIntrpt = [] ∧
    t.crypto = s.crypto ∧ t.pending = s.pending ∧ t.reply = none ∧ t.diags = []

/-- CRESET zeroes the hash state, the message block and `last`, and leaves the TimerBlock alone (R261).
Holding `pending`, `reply` and `diags` this way is the model's choice (log entries 1, 4, 5). -/
def Obligations.CryptoResetZeroesCryptoBlock : Prop :=
  ∀ s : State, ∃ t, exec .creset s = .next t ∧
    (∀ j : Fin 8, t.crypto.hash[j] = 0) ∧ (∀ j : Fin 16, t.crypto.block[j] = 0) ∧ t.crypto.last = 0 ∧
    t.timer = s.timer ∧ t.pending = s.pending ∧ t.reply = none ∧ t.diags = []

/-- The power-on state is the state TRESET and CRESET produce, from any state whose `revision` is the constant, and both
orders of the two resets, once or twice, give the same blocks (R262, R263). -/
def Obligations.ResetsAreIdempotentAndGivePowerOnState : Prop :=
  ∀ s : State, ∃ t u v, execAll [.treset, .creset] s = .next t ∧ execAll [.creset, .treset] s = .next u ∧
    execAll [.treset, .treset, .creset, .creset] s = .next v ∧ t = u ∧ t = v ∧
    (s.timer.revision = Config.params.revision → t.timer = State.reset.timer ∧ t.crypto = State.reset.crypto)

/-- A TIMER reset aborts everything in flight: however many cycles follow it, the TimerBlock stays at its reset values (R260,
R157). -/
def Obligations.TimerResetAbortsEventsInFlight : Prop :=
  ∀ (s : State) (clks : List Bool), ∃ t, execAll (.treset :: clks.map Instr.tcycle) s = .next t ∧
    t.timer = TimerBlock.reset s.timer.revision ∧ t.crypto = s.crypto

/-- Repeating a TIMER write leaves the state one write leaves (R69).
Holding `pending` this way is the model's choice (log entry 1). -/
def Obligations.TimerWritesAreIdempotent : Prop :=
  ∀ (s : State) (p : Bool) (off : TimerOffset) (b : Byte) (locks : Locks) (rest : List Transaction),
    s.pending = taTx p true off b locks :: rest →
    ∃ t, step s = .next t ∧ step { t with pending := taTx p true off b locks :: rest } = .next t

/-- Repeating a CRYPTO read with the same lock inputs returns the same byte and leaves the same state (R69).
Holding `pending` this way is the model's choice (log entry 1). -/
def Obligations.CryptoReadsAreRepeatable : Prop :=
  ∀ (s : State) (p : Bool) (off : CryptoOffset) (b : Byte) (locks : Locks) (rest : List Transaction),
    s.pending = caTx p false off b locks :: rest →
    ∃ t, step s = .next t ∧ step { t with pending := caTx p false off b locks :: rest } = .next t

/-- The two blocks do not touch each other: a TIMER transaction depends on the TimerBlock alone and keeps the CryptoBlock; a
CRYPTO transaction depends on the CryptoBlock alone and keeps the TimerBlock (R61, R262).
Holding `reply` and `diags` this way is the model's choice (log entries 4, 5). -/
def Obligations.BlocksDoNotInterfere : Prop :=
  ∀ (i : Instr) (s s' : State),
    ∃ t t', exec i s = .next t ∧ exec i s' = .next t' ∧
      (onTimer i = true → t.crypto = s.crypto ∧
        (s.timer = s'.timer → t.timer = t'.timer ∧ t.reply = t'.reply ∧ t.diags = t'.diags)) ∧
      (onTimer i = false → t.timer = s.timer ∧
        (s.crypto = s'.crypto → t.crypto = t'.crypto ∧ t.reply = t'.reply ∧ t.diags = t'.diags))
end

