-- ==== Sys2Proof/Laws/State.lean ====
section
/-!
SUPPORT. One lemma per field per update of the state and of the two blocks, true by rfl, for simp.
-/

namespace Sys2Proof.Machine

/-! ### State.answer -/

@[simp] theorem State.answer_timer (s : State) (r : Option Byte) (d : List Diagnostic) : (s.answer r d).timer = s.timer := rfl
@[simp] theorem State.answer_crypto (s : State) (r : Option Byte) (d : List Diagnostic) : (s.answer r d).crypto = s.crypto := rfl
@[simp] theorem State.answer_pending (s : State) (r : Option Byte) (d : List Diagnostic) : (s.answer r d).pending = s.pending := rfl
@[simp] theorem State.answer_reply (s : State) (r : Option Byte) (d : List Diagnostic) : (s.answer r d).reply = r := rfl
@[simp] theorem State.answer_diags (s : State) (r : Option Byte) (d : List Diagnostic) : (s.answer r d).diags = d := rfl

/-! ### State.setTimer -/

@[simp] theorem State.setTimer_timer (s : State) (t : TimerBlock) : (s.setTimer t).timer = t := rfl
@[simp] theorem State.setTimer_crypto (s : State) (t : TimerBlock) : (s.setTimer t).crypto = s.crypto := rfl
@[simp] theorem State.setTimer_pending (s : State) (t : TimerBlock) : (s.setTimer t).pending = s.pending := rfl
@[simp] theorem State.setTimer_reply (s : State) (t : TimerBlock) : (s.setTimer t).reply = s.reply := rfl
@[simp] theorem State.setTimer_diags (s : State) (t : TimerBlock) : (s.setTimer t).diags = s.diags := rfl

/-! ### State.setCrypto -/

@[simp] theorem State.setCrypto_timer (s : State) (c : CryptoBlock) : (s.setCrypto c).timer = s.timer := rfl
@[simp] theorem State.setCrypto_crypto (s : State) (c : CryptoBlock) : (s.setCrypto c).crypto = c := rfl
@[simp] theorem State.setCrypto_pending (s : State) (c : CryptoBlock) : (s.setCrypto c).pending = s.pending := rfl
@[simp] theorem State.setCrypto_reply (s : State) (c : CryptoBlock) : (s.setCrypto c).reply = s.reply := rfl
@[simp] theorem State.setCrypto_diags (s : State) (c : CryptoBlock) : (s.setCrypto c).diags = s.diags := rfl

/-! ### State.setPending -/

@[simp] theorem State.setPending_timer (s : State) (l : List Transaction) : (s.setPending l).timer = s.timer := rfl
@[simp] theorem State.setPending_crypto (s : State) (l : List Transaction) : (s.setPending l).crypto = s.crypto := rfl
@[simp] theorem State.setPending_pending (s : State) (l : List Transaction) : (s.setPending l).pending = l := rfl
@[simp] theorem State.setPending_reply (s : State) (l : List Transaction) : (s.setPending l).reply = s.reply := rfl
@[simp] theorem State.setPending_diags (s : State) (l : List Transaction) : (s.setPending l).diags = s.diags := rfl

/-! ### TimerBlock.setRegs -/

@[simp] theorem TimerBlock.setRegs_timers (t : TimerBlock) (n : TimerIx) (r : TimerRegs) : (t.setRegs n r).timers = t.timers.set n r := rfl
@[simp] theorem TimerBlock.setRegs_ctrl (t : TimerBlock) (n : TimerIx) (r : TimerRegs) : (t.setRegs n r).ctrl = t.ctrl := rfl
@[simp] theorem TimerBlock.setRegs_status (t : TimerBlock) (n : TimerIx) (r : TimerRegs) : (t.setRegs n r).status = t.status := rfl
@[simp] theorem TimerBlock.setRegs_mask (t : TimerBlock) (n : TimerIx) (r : TimerRegs) : (t.setRegs n r).mask = t.mask := rfl
@[simp] theorem TimerBlock.setRegs_revision (t : TimerBlock) (n : TimerIx) (r : TimerRegs) : (t.setRegs n r).revision = t.revision := rfl
@[simp] theorem TimerBlock.setRegs_delayStatus (t : TimerBlock) (n : TimerIx) (r : TimerRegs) : (t.setRegs n r).delayStatus = t.delayStatus := rfl
@[simp] theorem TimerBlock.setRegs_delayIntrpt (t : TimerBlock) (n : TimerIx) (r : TimerRegs) : (t.setRegs n r).delayIntrpt = t.delayIntrpt := rfl
@[simp] theorem TimerBlock.setRegs_irq (t : TimerBlock) (n : TimerIx) (r : TimerRegs) : (t.setRegs n r).irq = t.irq := rfl

/-! ### TimerBlock.setCnt -/

@[simp] theorem TimerBlock.setCnt_timers (t : TimerBlock) (n : TimerIx) (v : Word) : (t.setCnt n v).timers = t.timers.set n { t.timers[n] with cnt := v } := rfl
@[simp] theorem TimerBlock.setCnt_ctrl (t : TimerBlock) (n : TimerIx) (v : Word) : (t.setCnt n v).ctrl = t.ctrl := rfl
@[simp] theorem TimerBlock.setCnt_status (t : TimerBlock) (n : TimerIx) (v : Word) : (t.setCnt n v).status = t.status := rfl
@[simp] theorem TimerBlock.setCnt_mask (t : TimerBlock) (n : TimerIx) (v : Word) : (t.setCnt n v).mask = t.mask := rfl
@[simp] theorem TimerBlock.setCnt_revision (t : TimerBlock) (n : TimerIx) (v : Word) : (t.setCnt n v).revision = t.revision := rfl
@[simp] theorem TimerBlock.setCnt_delayStatus (t : TimerBlock) (n : TimerIx) (v : Word) : (t.setCnt n v).delayStatus = t.delayStatus := rfl
@[simp] theorem TimerBlock.setCnt_delayIntrpt (t : TimerBlock) (n : TimerIx) (v : Word) : (t.setCnt n v).delayIntrpt = t.delayIntrpt := rfl
@[simp] theorem TimerBlock.setCnt_irq (t : TimerBlock) (n : TimerIx) (v : Word) : (t.setCnt n v).irq = t.irq := rfl

/-! ### TimerBlock.irqRecompute -/

@[simp] theorem TimerBlock.irqRecompute_timers (t : TimerBlock) : (t.irqRecompute).timers = t.timers := rfl
@[simp] theorem TimerBlock.irqRecompute_ctrl (t : TimerBlock) : (t.irqRecompute).ctrl = t.ctrl := rfl
@[simp] theorem TimerBlock.irqRecompute_status (t : TimerBlock) : (t.irqRecompute).status = t.status := rfl
@[simp] theorem TimerBlock.irqRecompute_mask (t : TimerBlock) : (t.irqRecompute).mask = t.mask := rfl
@[simp] theorem TimerBlock.irqRecompute_revision (t : TimerBlock) : (t.irqRecompute).revision = t.revision := rfl
@[simp] theorem TimerBlock.irqRecompute_delayStatus (t : TimerBlock) : (t.irqRecompute).delayStatus = t.delayStatus := rfl
@[simp] theorem TimerBlock.irqRecompute_delayIntrpt (t : TimerBlock) : (t.irqRecompute).delayIntrpt = t.delayIntrpt := rfl
@[simp] theorem TimerBlock.irqRecompute_irq (t : TimerBlock) : (t.irqRecompute).irq = Vector.ofFn fun n => t.unmasked n := rfl

/-! ### TimerBlock.statusMature -/

@[simp] theorem TimerBlock.statusMature_timers (t : TimerBlock) (e : StatusEntry) : (t.statusMature e).timers = t.timers := rfl
@[simp] theorem TimerBlock.statusMature_ctrl (t : TimerBlock) (e : StatusEntry) : (t.statusMature e).ctrl = t.ctrl := rfl
@[simp] theorem TimerBlock.statusMature_status (t : TimerBlock) (e : StatusEntry) : (t.statusMature e).status = t.status ||| e.bits := rfl
@[simp] theorem TimerBlock.statusMature_mask (t : TimerBlock) (e : StatusEntry) : (t.statusMature e).mask = t.mask := rfl
@[simp] theorem TimerBlock.statusMature_revision (t : TimerBlock) (e : StatusEntry) : (t.statusMature e).revision = t.revision := rfl
@[simp] theorem TimerBlock.statusMature_delayStatus (t : TimerBlock) (e : StatusEntry) : (t.statusMature e).delayStatus = t.delayStatus := rfl
@[simp] theorem TimerBlock.statusMature_delayIntrpt (t : TimerBlock) (e : StatusEntry) : (t.statusMature e).delayIntrpt = t.delayIntrpt := rfl
@[simp] theorem TimerBlock.statusMature_irq (t : TimerBlock) (e : StatusEntry) : (t.statusMature e).irq = t.irq := rfl

/-! ### TimerBlock.intrptMature -/

@[simp] theorem TimerBlock.intrptMature_timers (t : TimerBlock) (e : IntrptEntry) : (t.intrptMature e).timers = t.timers := rfl
@[simp] theorem TimerBlock.intrptMature_ctrl (t : TimerBlock) (e : IntrptEntry) : (t.intrptMature e).ctrl = t.ctrl := rfl
@[simp] theorem TimerBlock.intrptMature_status (t : TimerBlock) (e : IntrptEntry) : (t.intrptMature e).status = t.status := rfl
@[simp] theorem TimerBlock.intrptMature_mask (t : TimerBlock) (e : IntrptEntry) : (t.intrptMature e).mask = t.mask := rfl
@[simp] theorem TimerBlock.intrptMature_revision (t : TimerBlock) (e : IntrptEntry) : (t.intrptMature e).revision = t.revision := rfl
@[simp] theorem TimerBlock.intrptMature_delayStatus (t : TimerBlock) (e : IntrptEntry) : (t.intrptMature e).delayStatus = t.delayStatus := rfl
@[simp] theorem TimerBlock.intrptMature_delayIntrpt (t : TimerBlock) (e : IntrptEntry) : (t.intrptMature e).delayIntrpt = t.delayIntrpt := rfl
@[simp] theorem TimerBlock.intrptMature_irq (t : TimerBlock) (e : IntrptEntry) : (t.intrptMature e).irq = Vector.ofFn fun n : Fin 3 => if e.lines.getLsbD n.val then t.unmasked n else t.irq[n] := rfl

/-! ### CryptoBlock.record -/

@[simp] theorem CryptoBlock.record_hash (c : CryptoBlock) (idx : WordIndex) : (c.record idx).hash = c.hash := rfl
@[simp] theorem CryptoBlock.record_block (c : CryptoBlock) (idx : WordIndex) : (c.record idx).block = c.block := rfl
@[simp] theorem CryptoBlock.record_last (c : CryptoBlock) (idx : WordIndex) : (c.record idx).last = idx := rfl

/-! ### CryptoBlock.writeBlock -/

@[simp] theorem CryptoBlock.writeBlock_hash (c : CryptoBlock) (j : BitVec 4) (k : Lane) (b : Byte) : (c.writeBlock j k b).hash = c.hash := rfl
@[simp] theorem CryptoBlock.writeBlock_block (c : CryptoBlock) (j : BitVec 4) (k : Lane) (b : Byte) : (c.writeBlock j k b).block = c.block.set j.toFin (setByte c.block[j.toFin] k b) := rfl
@[simp] theorem CryptoBlock.writeBlock_last (c : CryptoBlock) (j : BitVec 4) (k : Lane) (b : Byte) : (c.writeBlock j k b).last = c.last := rfl

/-! ### CryptoBlock.zeroState -/

@[simp] theorem CryptoBlock.zeroState_hash (c : CryptoBlock) : (c.zeroState).hash = Vector.replicate 8 0 := rfl
@[simp] theorem CryptoBlock.zeroState_block (c : CryptoBlock) : (c.zeroState).block = c.block := rfl
@[simp] theorem CryptoBlock.zeroState_last (c : CryptoBlock) : (c.zeroState).last = c.last := rfl

/-! ### CryptoBlock.initState -/

@[simp] theorem CryptoBlock.initState_hash (c : CryptoBlock) : (c.initState).hash = shaIV := rfl
@[simp] theorem CryptoBlock.initState_block (c : CryptoBlock) : (c.initState).block = c.block := rfl
@[simp] theorem CryptoBlock.initState_last (c : CryptoBlock) : (c.initState).last = c.last := rfl

/-! ### CryptoBlock.compress -/

@[simp] theorem CryptoBlock.compress_hash (c : CryptoBlock) : (c.compress).hash = shaCompress c.hash c.block := rfl
@[simp] theorem CryptoBlock.compress_block (c : CryptoBlock) : (c.compress).block = c.block := rfl
@[simp] theorem CryptoBlock.compress_last (c : CryptoBlock) : (c.compress).last = c.last := rfl

/-! ### Entries -/

@[simp] theorem StatusEntry.age_bits (e : StatusEntry) : e.age.bits = e.bits := rfl
@[simp] theorem StatusEntry.age_rem (e : StatusEntry) : e.age.rem = e.rem - 1 := rfl
@[simp] theorem IntrptEntry.age_lines (e : IntrptEntry) : e.age.lines = e.lines := rfl
@[simp] theorem IntrptEntry.age_rem (e : IntrptEntry) : e.age.rem = e.rem - 1 := rfl

/-! ### One timer's registers after an update -/

@[simp] theorem TimerBlock.setRegs_timers_self (t : TimerBlock) (n : TimerIx) (r : TimerRegs) :
    (t.setRegs n r).timers[n] = r := by
  simp

theorem TimerBlock.setRegs_timers_ne (t : TimerBlock) {n m : TimerIx} (r : TimerRegs) (h : n ≠ m) :
    (t.setRegs n r).timers[m] = t.timers[m] := by
  have : n.val ≠ m.val := fun e => h (Fin.ext e)
  simp [this]

/-- A counter update keeps every other register of every timer. -/
theorem TimerBlock.setCnt_timers_get (t : TimerBlock) (n m : TimerIx) (v : Word) :
    (t.setCnt n v).timers[m] = if n = m then { t.timers[m] with cnt := v } else t.timers[m] := by
  by_cases h : n = m
  · subst h; simp
  · have : n.val ≠ m.val := fun e => h (Fin.ext e)
    simp [this, h]

@[simp] theorem TimerBlock.irqRecompute_irq_get (t : TimerBlock) (n : TimerIx) :
    t.irqRecompute.irq[n] = t.unmasked n := by
  simp

end Sys2Proof.Machine
end

