-- ==== Sys2Proof/Laws/Ops.lean ====
section
/-!
SUPPORT. What each shared operation can do, said once: the byte lanes, the accesses of the two windows, the fetch and
the step. Proofs cite these instead of unfolding the operations.
-/

namespace Sys2Proof.Machine

/-! ## Byte lanes -/

/-- Bit `i` of a byte lane is bit `8k+i` of the register (R63). -/
theorem byteOf_getLsbD (v : Word) (k : Lane) (i : Nat) (h : i < 8) :
    (byteOf v k).getLsbD i = v.getLsbD (8 * k.toNat + i) := by
  simp [byteOf, h]

/-- `setByte` takes the new byte's bits in its lane and keeps the others (R10). -/
theorem setByte_getLsbD (v : Word) (k : Lane) (b : Byte) (i : Nat) (h : i < 32) :
    (setByte v k b).getLsbD i = if i / 8 = k.toNat then b.getLsbD (i % 8) else v.getLsbD i := by
  have hk : k.toNat < 4 := k.isLt
  have hFF : ∀ m : Nat, (0xFF#32).getLsbD m = decide (m < 8) := fun m => by
    by_cases hm : m < 32
    · have : ∀ x : Fin 32, (0xFF#32).getLsbD x.val = decide (x.val < 8) := by decide
      exact this ⟨m, hm⟩
    · rw [BitVec.getLsbD_of_ge _ _ (by omega)]
      exact (decide_eq_false (by omega)).symm
  simp only [setByte, BitVec.getLsbD_or, BitVec.getLsbD_and, BitVec.getLsbD_not, BitVec.getLsbD_shiftLeft,
    BitVec.getLsbD_setWidth, hFF, h, decide_true, Bool.true_and]
  by_cases h1 : i / 8 = k.toNat
  · have h2 : ¬ i < 8 * k.toNat := by omega
    have h3 : i - 8 * k.toNat = i % 8 := by omega
    have h4 : i % 8 < 8 := by omega
    have h5 : i % 8 < 32 := by omega
    simp [h1, h2, h3, h4, h5]
  · rw [if_neg h1]
    by_cases h2 : i < 8 * k.toNat
    · simp [h2]
    · have h4 : ¬ (i - 8 * k.toNat < 8) := by omega
      have h5 : b.getLsbD (i - 8 * k.toNat) = false := BitVec.getLsbD_of_ge _ _ (by omega)
      simp [h2, h4, h5]

/-- Reading the lane just written gives the byte. -/
theorem byteOf_setByte_self (v : Word) (k : Lane) (b : Byte) : byteOf (setByte v k b) k = b := by
  have hk : k.toNat < 4 := k.isLt
  apply BitVec.eq_of_getLsbD_eq
  intro i hi
  rw [byteOf_getLsbD _ _ _ hi, setByte_getLsbD _ _ _ _ (by omega), if_pos (by omega)]
  congr 1; omega

/-- Reading another lane gives what it gave before. -/
theorem byteOf_setByte_ne (v : Word) {k l : Lane} (b : Byte) (h : l ≠ k) : byteOf (setByte v k b) l = byteOf v l := by
  have hl : l.toNat < 4 := l.isLt
  have hne : l.toNat ≠ k.toNat := fun e => h (BitVec.eq_of_toNat_eq e)
  apply BitVec.eq_of_getLsbD_eq
  intro i hi
  rw [byteOf_getLsbD _ _ _ hi, byteOf_getLsbD _ _ _ hi, setByte_getLsbD _ _ _ _ (by omega), if_neg (by omega)]

/-- Writing the same byte twice is writing it once. -/
theorem setByte_setByte (v : Word) (k : Lane) (b : Byte) : setByte (setByte v k b) k b = setByte v k b := by
  apply BitVec.eq_of_getLsbD_eq
  intro i hi
  rw [setByte_getLsbD _ _ _ _ hi, setByte_getLsbD _ _ _ _ hi]
  split <;> rfl

/-! ## Accesses -/

/-- All a TIMER read can do. -/
theorem timerRead_next {r : TimerReg} {k : Lane} {s t : State} (h : timerRead r k s = .next t) :
    t = s.answer (some (byteOf (s.timer.slot r) k)) [] := by
  simpa [timerRead, eq_comm] using h

/-- All a TIMER write can do. -/
theorem timerWrite_next {r : TimerReg} {k : Lane} {b : Byte} {s t : State} (h : timerWrite r k b s = .next t) :
    t = (s.setTimer (s.timer.writeSlot r k b)).answer none [] := by
  simpa [timerWrite, eq_comm] using h

/-- All a CRYPTO read can do: peek, unlocked read, locked replay (R182, R183, R189). -/
theorem cryptoRead_cases {a : Access} {idx : WordIndex} {k : Lane} {s t : State} (h : cryptoRead a idx k s = .next t) :
    (a = .inspect ∧ t = s.answer (some (byteOf (s.crypto.wordAt idx) k)) []) ∨
    (∃ l, a = .normal l ∧ l.opAllowed = true ∧
      t = (s.setCrypto (s.crypto.record idx)).answer (some (byteOf (s.crypto.wordAt idx) k)) []) ∨
    (∃ l, a = .normal l ∧ l.opAllowed = false ∧ t = s.answer (some (byteOf (s.crypto.wordAt s.crypto.last) k)) []) := by
  cases a with
  | inspect => exact .inl ⟨rfl, by simpa [cryptoRead, eq_comm] using h⟩
  | normal l =>
    cases ho : l.opAllowed with
    | true => exact .inr (.inl ⟨l, rfl, ho, by simpa [cryptoRead, ho, eq_comm] using h⟩)
    | false => exact .inr (.inr ⟨l, rfl, ho, by simpa [cryptoRead, ho, eq_comm] using h⟩)

/-- All a CRYPTO write can do: poke, locked write, unlocked write (R188, R189). -/
theorem cryptoWrite_cases {a : Access} {idx : WordIndex} {f : CryptoBlock → CryptoBlock} {s t : State}
    (h : cryptoWrite a idx f s = .next t) :
    (a = .inspect ∧ t = (s.setCrypto (f s.crypto)).answer none []) ∨
    (∃ l, a = .normal l ∧ l.writeProtected = true ∧ t = (s.setCrypto (s.crypto.record idx)).answer none []) ∨
    (∃ l, a = .normal l ∧ l.writeProtected = false ∧ t = (s.setCrypto (f (s.crypto.record idx))).answer none []) := by
  cases a with
  | inspect => exact .inl ⟨rfl, by simpa [cryptoWrite, eq_comm] using h⟩
  | normal l =>
    cases ho : l.writeProtected with
    | true => exact .inr (.inl ⟨l, rfl, ho, by simpa [cryptoWrite, ho, eq_comm] using h⟩)
    | false => exact .inr (.inr ⟨l, rfl, ho, by simpa [cryptoWrite, ho, eq_comm] using h⟩)

/-- All a block cycle can do to the state. -/
theorem tcycleWith_next {c : Config} {clk1 : Bool} {s t : State} (h : tcycleWith c clk1 s = .next t) :
    t = (s.setTimer (s.timer.cycle c clk1).block).answer none (s.timer.cycle c clk1).diags := by
  simpa [tcycleWith, eq_comm] using h

/-- The control operations change nothing but the hash state (R190-R194). -/
theorem controlOp_frame (c : CryptoBlock) (v : Byte) :
    (c.controlOp v).block = c.block ∧ (c.controlOp v).last = c.last := by
  simp only [CryptoBlock.controlOp]
  split
  · exact ⟨rfl, rfl⟩
  · split <;> split <;> exact ⟨rfl, rfl⟩

/-! ## Fetch and step -/

@[simp] theorem State.fetch_nil {s : State} (h : s.pending = []) : s.fetch = none := by
  simp [State.fetch, h]

@[simp] theorem State.fetch_cons {s : State} {tx : Transaction} {rest : List Transaction} (h : s.pending = tx :: rest) :
    s.fetch = some (tx, s.setPending rest) := by
  simp [State.fetch, h]

/-- All a step can do: nothing while nothing is issued, or the oldest transaction's meaning. -/
theorem step_next_cases {s t : State} (h : step s = .next t) :
    (s.pending = [] ∧ t = s) ∨
    ∃ tx rest i, s.pending = tx :: rest ∧ decode tx = .ok i ∧ exec i (s.setPending rest) = .next t := by
  cases hp : s.pending with
  | nil => exact .inl ⟨rfl, by simpa [step, hp, eq_comm] using h⟩
  | cons tx rest =>
    refine .inr ⟨tx, rest, ?_⟩
    cases hd : decode tx with
    | ok i => exact ⟨i, rfl, rfl, by simpa [step, State.fetch_cons hp, hd] using h⟩
    | error e => cases e; simp [step, State.fetch_cons hp, hd] at h

/-- A table word issued first is what the next step takes. -/
theorem State.fetch_issueFirst (s : State) (tx : Transaction) : (s.issueFirst tx).fetch = some (tx, s) := rfl

end Sys2Proof.Machine
end

