-- ==== Sys2Proof/Laws/PerInstr.lean ====
section
/-!
SUPPORT. The family `MatchesRow`: the word the encoder gives a well-formed instruction has the format of its row of
spec/opcode_table.json and shows the row's match value under the row's mask (R92). One lemma per constructor.
-/

namespace Sys2Proof.Laws

open Sys2Proof

/-- The encoded word is one the instruction's row selects. -/
def MatchesRow.Statement (i : Instr) : Prop :=
  i.wf = true → (wordBits (encode i).word).1 = (rowOf i).fmt ∧
    (wordBits (encode i).word).2 &&& (rowOf i).mask = (rowOf i).pat

set_option maxRecDepth 20000

/-! ## The shapes of rows -/

theorem slotWord_matches : ∀ (q w : Bool) (slot : BitVec 6) (k : Lane),
    (accessWord q w (slotOffset (slot ++ 0#2) k)).setWidth 10 &&& 0x1FC#10 = BitVec.ofBool false ++ BitVec.ofBool w ++ slot ++ 0#2 := by
  decide

theorem outsideA_matches : ∀ (q w : Bool) (off : TimerOffset), offIsOorA off = true →
    (accessWord q w off).setWidth 10 &&& 0x1C0#10 = BitVec.ofBool false ++ BitVec.ofBool w ++ 0x40#8 := by
  decide

theorem outsideB_matches : ∀ (q w : Bool) (off : TimerOffset), offIsOorB off = true →
    (accessWord q w off).setWidth 10 &&& 0x180#10 = BitVec.ofBool false ++ BitVec.ofBool w ++ 0x80#8 := by
  decide

theorem lastWord_matches : ∀ (q w : Bool) (k : Lane),
    (accessWord q w (wordOffset Config.lastIdx k)).setWidth 10 &&& 0x1FC#10 = BitVec.ofBool false ++ BitVec.ofBool w ++ 0x0C#8 := by
  decide

theorem blockA_matches : ∀ (q w : Bool) (j : BitVec 4) (k : Lane), blockIsA j = true →
    (accessWord q w (wordOffset (blockIndex j) k)).setWidth 10 &&& 0x1F0#10 = BitVec.ofBool false ++ BitVec.ofBool w ++ 0x10#8 := by
  decide

theorem blockB_matches : ∀ (q w : Bool) (j : BitVec 4) (k : Lane), blockIsB j = true →
    (accessWord q w (wordOffset (blockIndex j) k)).setWidth 10 &&& 0x1E0#10 = BitVec.ofBool false ++ BitVec.ofBool w ++ 0x20#8 := by
  decide

theorem blockC_matches : ∀ (q w : Bool) (j : BitVec 4) (k : Lane), blockIsC j = true →
    (accessWord q w (wordOffset (blockIndex j) k)).setWidth 10 &&& 0x1F0#10 = BitVec.ofBool false ++ BitVec.ofBool w ++ 0x40#8 := by
  decide

theorem stateWord_matches : ∀ (q w : Bool) (j : BitVec 3) (k : Lane),
    (accessWord q w (wordOffset (stateIndex j) k)).setWidth 10 &&& 0x1E0#10 = BitVec.ofBool false ++ BitVec.ofBool w ++ 0x60#8 := by
  decide

theorem noneWord_matches : ∀ (q w : Bool) (off : CryptoOffset),
    (accessWord q w off).setWidth 10 &&& 0x100#10 = BitVec.ofBool false ++ BitVec.ofBool w ++ 0x00#8 := by
  decide

theorem controlWord_matches : ∀ q : Bool, (accessWord q true Config.ctrlOff).setWidth 10 &&& 0x1FF#10 = 0x100#10 := by
  decide

/-! ## One lemma per constructor -/

theorem MatchesRow.trdCnt0 (p : Variant) (k : Lane) : MatchesRow.Statement (.trdCnt0 p k) :=
  fun _ => ⟨rfl, slotWord_matches (variantBit p) false 0x00#6 k⟩

theorem MatchesRow.trdRld0 (p : Variant) (k : Lane) : MatchesRow.Statement (.trdRld0 p k) :=
  fun _ => ⟨rfl, slotWord_matches (variantBit p) false 0x01#6 k⟩

theorem MatchesRow.trdM00 (p : Variant) (k : Lane) : MatchesRow.Statement (.trdM00 p k) :=
  fun _ => ⟨rfl, slotWord_matches (variantBit p) false 0x02#6 k⟩

theorem MatchesRow.trdM10 (p : Variant) (k : Lane) : MatchesRow.Statement (.trdM10 p k) :=
  fun _ => ⟨rfl, slotWord_matches (variantBit p) false 0x03#6 k⟩

theorem MatchesRow.trdCnt1 (p : Variant) (k : Lane) : MatchesRow.Statement (.trdCnt1 p k) :=
  fun _ => ⟨rfl, slotWord_matches (variantBit p) false 0x04#6 k⟩

theorem MatchesRow.trdRld1 (p : Variant) (k : Lane) : MatchesRow.Statement (.trdRld1 p k) :=
  fun _ => ⟨rfl, slotWord_matches (variantBit p) false 0x05#6 k⟩

theorem MatchesRow.trdM01 (p : Variant) (k : Lane) : MatchesRow.Statement (.trdM01 p k) :=
  fun _ => ⟨rfl, slotWord_matches (variantBit p) false 0x06#6 k⟩

theorem MatchesRow.trdM11 (p : Variant) (k : Lane) : MatchesRow.Statement (.trdM11 p k) :=
  fun _ => ⟨rfl, slotWord_matches (variantBit p) false 0x07#6 k⟩

theorem MatchesRow.trdCnt2 (p : Variant) (k : Lane) : MatchesRow.Statement (.trdCnt2 p k) :=
  fun _ => ⟨rfl, slotWord_matches (variantBit p) false 0x08#6 k⟩

theorem MatchesRow.trdRld2 (p : Variant) (k : Lane) : MatchesRow.Statement (.trdRld2 p k) :=
  fun _ => ⟨rfl, slotWord_matches (variantBit p) false 0x09#6 k⟩

theorem MatchesRow.trdM02 (p : Variant) (k : Lane) : MatchesRow.Statement (.trdM02 p k) :=
  fun _ => ⟨rfl, slotWord_matches (variantBit p) false 0x0A#6 k⟩

theorem MatchesRow.trdM12 (p : Variant) (k : Lane) : MatchesRow.Statement (.trdM12 p k) :=
  fun _ => ⟨rfl, slotWord_matches (variantBit p) false 0x0B#6 k⟩

theorem MatchesRow.trdCtrl (p : Variant) (k : Lane) : MatchesRow.Statement (.trdCtrl p k) :=
  fun _ => ⟨rfl, slotWord_matches (variantBit p) false 0x0C#6 k⟩

theorem MatchesRow.trdStatus (p : Variant) (k : Lane) : MatchesRow.Statement (.trdStatus p k) :=
  fun _ => ⟨rfl, slotWord_matches (variantBit p) false 0x0D#6 k⟩

theorem MatchesRow.trdMask (p : Variant) (k : Lane) : MatchesRow.Statement (.trdMask p k) :=
  fun _ => ⟨rfl, slotWord_matches (variantBit p) false 0x0E#6 k⟩

theorem MatchesRow.trdRev (p : Variant) (k : Lane) : MatchesRow.Statement (.trdRev p k) :=
  fun _ => ⟨rfl, slotWord_matches (variantBit p) false 0x0F#6 k⟩

theorem MatchesRow.trdOorA (p : Variant) (off : TimerOffset) : MatchesRow.Statement (.trdOorA p off) :=
  fun h => ⟨rfl, outsideA_matches (variantBit p) false off h⟩

theorem MatchesRow.trdOorB (p : Variant) (off : TimerOffset) : MatchesRow.Statement (.trdOorB p off) :=
  fun h => ⟨rfl, outsideB_matches (variantBit p) false off h⟩

theorem MatchesRow.twrCnt0 (p : Variant) (k : Lane) (b : Byte) : MatchesRow.Statement (.twrCnt0 p k b) :=
  fun _ => ⟨rfl, slotWord_matches (variantBit p) true 0x00#6 k⟩

theorem MatchesRow.twrRld0 (p : Variant) (k : Lane) (b : Byte) : MatchesRow.Statement (.twrRld0 p k b) :=
  fun _ => ⟨rfl, slotWord_matches (variantBit p) true 0x01#6 k⟩

theorem MatchesRow.twrM00 (p : Variant) (k : Lane) (b : Byte) : MatchesRow.Statement (.twrM00 p k b) :=
  fun _ => ⟨rfl, slotWord_matches (variantBit p) true 0x02#6 k⟩

theorem MatchesRow.twrM10 (p : Variant) (k : Lane) (b : Byte) : MatchesRow.Statement (.twrM10 p k b) :=
  fun _ => ⟨rfl, slotWord_matches (variantBit p) true 0x03#6 k⟩

theorem MatchesRow.twrCnt1 (p : Variant) (k : Lane) (b : Byte) : MatchesRow.Statement (.twrCnt1 p k b) :=
  fun _ => ⟨rfl, slotWord_matches (variantBit p) true 0x04#6 k⟩

theorem MatchesRow.twrRld1 (p : Variant) (k : Lane) (b : Byte) : MatchesRow.Statement (.twrRld1 p k b) :=
  fun _ => ⟨rfl, slotWord_matches (variantBit p) true 0x05#6 k⟩

theorem MatchesRow.twrM01 (p : Variant) (k : Lane) (b : Byte) : MatchesRow.Statement (.twrM01 p k b) :=
  fun _ => ⟨rfl, slotWord_matches (variantBit p) true 0x06#6 k⟩

theorem MatchesRow.twrM11 (p : Variant) (k : Lane) (b : Byte) : MatchesRow.Statement (.twrM11 p k b) :=
  fun _ => ⟨rfl, slotWord_matches (variantBit p) true 0x07#6 k⟩

theorem MatchesRow.twrCnt2 (p : Variant) (k : Lane) (b : Byte) : MatchesRow.Statement (.twrCnt2 p k b) :=
  fun _ => ⟨rfl, slotWord_matches (variantBit p) true 0x08#6 k⟩

theorem MatchesRow.twrRld2 (p : Variant) (k : Lane) (b : Byte) : MatchesRow.Statement (.twrRld2 p k b) :=
  fun _ => ⟨rfl, slotWord_matches (variantBit p) true 0x09#6 k⟩

theorem MatchesRow.twrM02 (p : Variant) (k : Lane) (b : Byte) : MatchesRow.Statement (.twrM02 p k b) :=
  fun _ => ⟨rfl, slotWord_matches (variantBit p) true 0x0A#6 k⟩

theorem MatchesRow.twrM12 (p : Variant) (k : Lane) (b : Byte) : MatchesRow.Statement (.twrM12 p k b) :=
  fun _ => ⟨rfl, slotWord_matches (variantBit p) true 0x0B#6 k⟩

theorem MatchesRow.twrCtrl (p : Variant) (k : Lane) (b : Byte) : MatchesRow.Statement (.twrCtrl p k b) :=
  fun _ => ⟨rfl, slotWord_matches (variantBit p) true 0x0C#6 k⟩

theorem MatchesRow.twrStatus (p : Variant) (k : Lane) (b : Byte) : MatchesRow.Statement (.twrStatus p k b) :=
  fun _ => ⟨rfl, slotWord_matches (variantBit p) true 0x0D#6 k⟩

theorem MatchesRow.twrMask (p : Variant) (k : Lane) (b : Byte) : MatchesRow.Statement (.twrMask p k b) :=
  fun _ => ⟨rfl, slotWord_matches (variantBit p) true 0x0E#6 k⟩

theorem MatchesRow.twrRev (p : Variant) (k : Lane) (b : Byte) : MatchesRow.Statement (.twrRev p k b) :=
  fun _ => ⟨rfl, slotWord_matches (variantBit p) true 0x0F#6 k⟩

theorem MatchesRow.twrOorA (p : Variant) (off : TimerOffset) (b : Byte) : MatchesRow.Statement (.twrOorA p off b) :=
  fun h => ⟨rfl, outsideA_matches (variantBit p) true off h⟩

theorem MatchesRow.twrOorB (p : Variant) (off : TimerOffset) (b : Byte) : MatchesRow.Statement (.twrOorB p off b) :=
  fun h => ⟨rfl, outsideB_matches (variantBit p) true off h⟩

theorem MatchesRow.crdLast (a : Access) (k : Lane) : MatchesRow.Statement (.crdLast a k) :=
  fun _ => ⟨rfl, lastWord_matches (accessBit a) false k⟩

theorem MatchesRow.crdBlockA (a : Access) (j : BitVec 4) (k : Lane) : MatchesRow.Statement (.crdBlockA a j k) :=
  fun h => ⟨rfl, blockA_matches (accessBit a) false j k h⟩

theorem MatchesRow.crdBlockB (a : Access) (j : BitVec 4) (k : Lane) : MatchesRow.Statement (.crdBlockB a j k) :=
  fun h => ⟨rfl, blockB_matches (accessBit a) false j k h⟩

theorem MatchesRow.crdBlockC (a : Access) (j : BitVec 4) (k : Lane) : MatchesRow.Statement (.crdBlockC a j k) :=
  fun h => ⟨rfl, blockC_matches (accessBit a) false j k h⟩

theorem MatchesRow.crdState (a : Access) (j : BitVec 3) (k : Lane) : MatchesRow.Statement (.crdState a j k) :=
  fun _ => ⟨rfl, stateWord_matches (accessBit a) false j k⟩

theorem MatchesRow.crdNone (a : Access) (off : CryptoOffset) : MatchesRow.Statement (.crdNone a off) :=
  fun _ => ⟨rfl, noneWord_matches (accessBit a) false off⟩

theorem MatchesRow.cwrCtrl (a : Access) (v : Byte) : MatchesRow.Statement (.cwrCtrl a v) :=
  fun _ => ⟨rfl, controlWord_matches (accessBit a)⟩

theorem MatchesRow.cwrLast (a : Access) (k : Lane) (b : Byte) : MatchesRow.Statement (.cwrLast a k b) :=
  fun _ => ⟨rfl, lastWord_matches (accessBit a) true k⟩

theorem MatchesRow.cwrBlockA (a : Access) (j : BitVec 4) (k : Lane) (b : Byte) : MatchesRow.Statement (.cwrBlockA a j k b) :=
  fun h => ⟨rfl, blockA_matches (accessBit a) true j k h⟩

theorem MatchesRow.cwrBlockB (a : Access) (j : BitVec 4) (k : Lane) (b : Byte) : MatchesRow.Statement (.cwrBlockB a j k b) :=
  fun h => ⟨rfl, blockB_matches (accessBit a) true j k h⟩

theorem MatchesRow.cwrBlockC (a : Access) (j : BitVec 4) (k : Lane) (b : Byte) : MatchesRow.Statement (.cwrBlockC a j k b) :=
  fun h => ⟨rfl, blockC_matches (accessBit a) true j k h⟩

theorem MatchesRow.cwrState (a : Access) (j : BitVec 3) (k : Lane) (b : Byte) : MatchesRow.Statement (.cwrState a j k b) :=
  fun _ => ⟨rfl, stateWord_matches (accessBit a) true j k⟩

theorem MatchesRow.cwrNone (a : Access) (off : CryptoOffset) (b : Byte) : MatchesRow.Statement (.cwrNone a off b) :=
  fun _ => ⟨rfl, noneWord_matches (accessBit a) true off⟩

theorem MatchesRow.tcycle (clk1 : Bool) : MatchesRow.Statement (.tcycle clk1) :=
  by cases clk1 <;> exact fun _ => ⟨rfl, by decide⟩

theorem MatchesRow.treset : MatchesRow.Statement (.treset) :=
  fun _ => ⟨rfl, by decide⟩

theorem MatchesRow.creset : MatchesRow.Statement (.creset) :=
  fun _ => ⟨rfl, by decide⟩

end Sys2Proof.Laws
end

