-- ==== Sys2Proof/Laws/Pipeline.lean ====
section
/-!
SUPPORT. What the block cycle can do, said once: the maturing of each pipeline, one timer's part of phase 2, and the
whole cycle (`cycle_block`, `cycle_diags`). Proofs about cycles cite the last two.
-/

namespace Sys2Proof.Machine

/-! ## Maturing -/

/-- Maturing a list of status entries changes `status` alone (R152). -/
theorem foldl_statusMature (l : List StatusEntry) (t : TimerBlock) :
    l.foldl TimerBlock.statusMature t = { t with status := l.foldl (fun v e => v ||| e.bits) t.status } := by
  induction l generalizing t with
  | nil => rfl
  | cons e l ih => rw [List.foldl_cons, ih]; rfl

/-- A bit of the merged status: set before, or carried by an entry. -/
theorem foldl_or_getLsbD (l : List StatusEntry) (v : BitVec 9) (k : Nat) :
    (l.foldl (fun v e => v ||| e.bits) v).getLsbD k = (v.getLsbD k || l.any fun e => e.bits.getLsbD k) := by
  induction l generalizing v with
  | nil => simp
  | cons e l ih => rw [List.foldl_cons, ih]; simp [Bool.or_assoc]

/-- Maturing a list of interrupt entries changes `irq` alone: each line an entry names takes its expression (R153). -/
theorem foldl_intrptMature (l : List IntrptEntry) (t : TimerBlock) :
    l.foldl TimerBlock.intrptMature t =
      { t with irq := Vector.ofFn fun n : Fin 3 =>
          if (l.any fun e => e.lines.getLsbD n.val) = true then t.unmasked n else t.irq[n] } := by
  induction l generalizing t with
  | nil =>
    simp
  | cons e l ih =>
    rw [List.foldl_cons, ih]
    simp only [TimerBlock.intrptMature, TimerBlock.mk.injEq, true_and, List.any_cons, Bool.or_eq_true]
    congr 1; funext n
    by_cases h1 : (l.any fun e => e.lines.getLsbD n.val) = true
    · simp only [h1, or_true, if_true]; rfl
    · simp only [h1]; simp

/-- The status entries due in the next cycle. -/
theorem due_status (t : TimerBlock) :
    (t.delayStatus.map StatusEntry.age).filter (fun e => e.rem == 0) =
      (t.delayStatus.filter fun e => e.rem = 1).map StatusEntry.age := by
  rw [List.filter_map]; congr 2; funext e
  simp only [Function.comp, StatusEntry.age_rem, beq_eq_decide, decide_eq_decide]; omega

/-- The status entries kept by the next cycle. -/
theorem kept_status (t : TimerBlock) :
    (t.delayStatus.map StatusEntry.age).filter (fun e => e.rem != 0) = t.keptStatus := by
  rw [List.filter_map]; unfold TimerBlock.keptStatus; congr 2; funext e
  simp only [Function.comp, StatusEntry.age_rem, bne, beq_eq_decide, ← decide_not, decide_eq_decide]; omega

/-- The interrupt entries due in the next cycle. -/
theorem due_intrpt (t : TimerBlock) :
    (t.delayIntrpt.map IntrptEntry.age).filter (fun e => e.rem == 0) =
      (t.delayIntrpt.filter fun e => e.rem = 1).map IntrptEntry.age := by
  rw [List.filter_map]; congr 2; funext e
  simp only [Function.comp, IntrptEntry.age_rem, beq_eq_decide, decide_eq_decide]; omega

/-- The interrupt entries kept by the next cycle. -/
theorem kept_intrpt (t : TimerBlock) :
    (t.delayIntrpt.map IntrptEntry.age).filter (fun e => e.rem != 0) = t.keptIntrpt := by
  rw [List.filter_map]; unfold TimerBlock.keptIntrpt; congr 2; funext e
  simp only [Function.comp, IntrptEntry.age_rem, bne, beq_eq_decide, ← decide_not, decide_eq_decide]; omega

/-- `status` after the ageing of a cycle (R150, R152). -/
def TimerBlock.statusAfterAge (t : TimerBlock) : BitVec 9 :=
  (t.delayStatus.filter fun e => e.rem = 1).foldl (fun v e => v ||| e.bits) t.status

/-- A status bit after the ageing. -/
theorem statusAfterAge_getLsbD (t : TimerBlock) (k : Nat) :
    t.statusAfterAge.getLsbD k = true ↔
      t.status.getLsbD k = true ∨ ∃ e ∈ t.delayStatus, e.rem = 1 ∧ e.bits.getLsbD k = true := by
  simp [TimerBlock.statusAfterAge, foldl_or_getLsbD]

/-- Whether timer `n` has an unmasked pending bit, for any two values of `status` and `mask` (R121). -/
def unmaskedIn (status mask : BitVec 9) (n : TimerIx) : Bool :=
  decide (timerBits status n &&& ~~~(timerBits mask n) ≠ 0#3)

theorem unmasked_eq (t : TimerBlock) (n : TimerIx) : t.unmasked n = unmaskedIn t.status t.mask n := rfl

/-- The interrupt expression bit by bit (R121). -/
theorem unmaskedIn_iff (status mask : BitVec 9) (n : TimerIx) :
    unmaskedIn status mask n = true ↔
      ∃ k < 3, status.getLsbD (3 * n.val + k) = true ∧ mask.getLsbD (3 * n.val + k) = false := by
  have key : ∀ x y : BitVec 3, (x &&& ~~~y ≠ 0#3) ↔ ∃ k < 3, x.getLsbD k = true ∧ y.getLsbD k = false := by decide
  have bit : ∀ (v : BitVec 9) (k : Nat), k < 3 → (timerBits v n).getLsbD k = v.getLsbD (3 * n.val + k) := by
    intro v k hk; simp [timerBits, hk]
  rw [unmaskedIn, decide_eq_true_iff, key]
  constructor
  · rintro ⟨k, hk, h⟩; rw [bit _ _ hk, bit _ _ hk] at h; exact ⟨k, hk, h⟩
  · rintro ⟨k, hk, h⟩; rw [← bit _ _ hk, ← bit _ _ hk] at h; exact ⟨k, hk, h⟩

/-- `irq` after the ageing of a cycle (R150, R153). -/
def TimerBlock.irqAfterAge (t : TimerBlock) : Vector Bool 3 :=
  Vector.ofFn fun n : Fin 3 =>
    if ((t.delayIntrpt.filter fun e => e.rem = 1).any fun e => e.lines.getLsbD n.val) = true then
      unmaskedIn t.statusAfterAge t.mask n
    else t.irq[n]

/-- All that `PipeAge()` does (R150). -/
theorem pipeAge_eq (t : TimerBlock) :
    t.pipeAge = { t with status := t.statusAfterAge, delayStatus := t.keptStatus, delayIntrpt := t.keptIntrpt, irq := t.irqAfterAge } := by
  have h1 : t.ageStatus = { t with status := t.statusAfterAge, delayStatus := t.keptStatus } := by
    simp only [TimerBlock.ageStatus, due_status, kept_status, foldl_statusMature]
    simp only [TimerBlock.statusAfterAge, List.foldl_map, StatusEntry.age_bits]
  simp only [TimerBlock.pipeAge, h1, TimerBlock.ageIntrpt, foldl_intrptMature, due_intrpt, kept_intrpt, List.any_map]
  rfl

/-! ## Phase 2 -/

/-- The entry a raised event pushes to `delayStatus` (R154). -/
def statusEntryOf (c : Config) (x : TimerIx × BitVec 3) : StatusEntry := ⟨x.2.setWidth 9 <<< (3 * x.1.val), c.statusDelay⟩

/-- The entry a raised event pushes to `delayIntrpt` (R155). -/
def intrptEntryOf (c : Config) (x : TimerIx × BitVec 3) : IntrptEntry := ⟨1#3 <<< x.1.val, c.intrptDelay⟩

/-- Timer `n`'s event in a cycle, as a list of none or one. -/
def TimerBlock.raisedBy (t : TimerBlock) (clk1 : Bool) (n : TimerIx) : List (TimerIx × BitVec 3) :=
  if t.countsThisCycle clk1 n ∧ t.eventsOf n ≠ 0#3 then [(n, t.eventsOf n)] else []

/-- The three timers' registers when only timer `n` makes its count step of the cycle. -/
def TimerBlock.counted (t : TimerBlock) (clk1 : Bool) (n : TimerIx) : Vector TimerRegs 3 :=
  if t.countsThisCycle clk1 n then t.timers.set n { t.timers[n] with cnt := (t.countStepOf n).nxt } else t.timers

/-- A pipeline with the entries of a list of events pushed, as far as there is room. -/
def pushed {ε : Type} (cap : Nat) (l : List ε) (f : TimerIx × BitVec 3 → ε) (new : List (TimerIx × BitVec 3)) : List ε :=
  l ++ (new.take (cap - l.length)).map f

theorem pushed_nil {ε : Type} (cap : Nat) (l : List ε) (f : TimerIx × BitVec 3 → ε) : pushed cap l f [] = l := by
  simp [pushed]

/-- Pushing in two turns is pushing the joined list. -/
theorem pushed_pushed {ε : Type} (cap : Nat) (l : List ε) (f : TimerIx × BitVec 3 → ε) (a b : List (TimerIx × BitVec 3)) :
    pushed cap (pushed cap l f a) f b = pushed cap l f (a ++ b) := by
  simp only [pushed, List.append_assoc, ← List.map_append, List.length_append, List.length_map, List.length_take]
  congr 2
  rw [List.take_append]
  congr 2
  omega

/-- How many of the events were dropped over two turns is how many of the joined list were. -/
theorem dropped_append {ε : Type} (cap : Nat) (l : List ε) (f : TimerIx × BitVec 3 → ε) (a b : List (TimerIx × BitVec 3)) :
    (a.length - (cap - l.length)) + (b.length - (cap - (pushed cap l f a).length)) =
      (a ++ b).length - (cap - l.length) := by
  simp only [pushed, List.length_append, List.length_map, List.length_take]; omega

/-- The diagnostics of a list of events: one for each entry dropped from either pipeline (R156). -/
def overruns (cap s i : Nat) (new : List (TimerIx × BitVec 3)) : List Diagnostic :=
  List.replicate ((new.length - (cap - s)) + (new.length - (cap - i))) .pipeOverrun

/-- The diagnostics of two turns are those of the joined list. -/
theorem overruns_append (c : Config) (s : List StatusEntry) (i : List IntrptEntry) (a b : List (TimerIx × BitVec 3)) :
    overruns c.pipeCap s.length i.length a ++
      overruns c.pipeCap (pushed c.pipeCap s (statusEntryOf c) a).length (pushed c.pipeCap i (intrptEntryOf c) a).length b =
    overruns c.pipeCap s.length i.length (a ++ b) := by
  have h1 := dropped_append c.pipeCap s (statusEntryOf c) a b
  have h2 := dropped_append c.pipeCap i (intrptEntryOf c) a b
  simp only [overruns, List.replicate_append_replicate]
  congr 1; omega

/-- All that timer `n`'s part of phase 2 does (R140, R154-R156). -/
theorem countTimer_eq (x : Ticking) (c : Config) (clk1 : Bool) (n : TimerIx) :
    x.countTimer c clk1 n =
      ⟨{ x.block with
          timers := x.block.counted clk1 n
          delayStatus := pushed c.pipeCap x.block.delayStatus (statusEntryOf c) (x.block.raisedBy clk1 n)
          delayIntrpt := pushed c.pipeCap x.block.delayIntrpt (intrptEntryOf c) (x.block.raisedBy clk1 n) },
       x.diags ++ overruns c.pipeCap x.block.delayStatus.length x.block.delayIntrpt.length (x.block.raisedBy clk1 n)⟩ := by
  by_cases hc : x.block.countsThisCycle clk1 n = true
  · by_cases he : x.block.eventsOf n = 0#3
    · simp [Ticking.countTimer, hc, he, TimerBlock.raisedBy, TimerBlock.counted, pushed_nil, overruns, TimerBlock.setCnt,
        TimerBlock.setRegs]
    · simp only [Ticking.countTimer, hc, if_true, ne_eq, he, not_false_eq_true, TimerBlock.raisedBy, TimerBlock.counted, and_self]
      simp only [Ticking.enqueue, Ticking.pushStatus, Ticking.pushIntrpt]
      by_cases hs : x.block.delayStatus.length < c.pipeCap <;> by_cases hi : x.block.delayIntrpt.length < c.pipeCap
      · have h1 : 1 ≤ c.pipeCap - x.block.delayStatus.length := by omega
        have h2 : 1 ≤ c.pipeCap - x.block.delayIntrpt.length := by omega
        simp [hs, hi, pushed, overruns, statusEntryOf, intrptEntryOf, List.take_of_length_le, h1, h2, TimerBlock.setCnt,
          TimerBlock.setRegs, Nat.sub_eq_zero_of_le]
      · have h1 : 1 ≤ c.pipeCap - x.block.delayStatus.length := by omega
        have h2 : c.pipeCap - x.block.delayIntrpt.length = 0 := by omega
        simp [hs, hi, pushed, overruns, statusEntryOf, List.take_of_length_le, h1, h2, TimerBlock.setCnt,
          TimerBlock.setRegs, Nat.sub_eq_zero_of_le]
      · have h1 : c.pipeCap - x.block.delayStatus.length = 0 := by omega
        have h2 : 1 ≤ c.pipeCap - x.block.delayIntrpt.length := by omega
        simp [hs, hi, pushed, overruns, intrptEntryOf, List.take_of_length_le, h1, h2, TimerBlock.setCnt,
          TimerBlock.setRegs, Nat.sub_eq_zero_of_le]
      · have h1 : c.pipeCap - x.block.delayStatus.length = 0 := by omega
        have h2 : c.pipeCap - x.block.delayIntrpt.length = 0 := by omega
        simp [hs, hi, pushed, overruns, h1, h2, TimerBlock.setCnt, TimerBlock.setRegs]
  · simp [Ticking.countTimer, hc, TimerBlock.raisedBy, TimerBlock.counted, pushed_nil, overruns]

/-! ## The whole cycle -/

/-- The three timers' registers after a cycle (R140-R143, R147). -/
def TimerBlock.countedAll (t : TimerBlock) (clk1 : Bool) : Vector TimerRegs 3 :=
  Vector.ofFn fun n : Fin 3 =>
    if t.countsThisCycle clk1 n = true then { t.timers[n] with cnt := (t.countStepOf n).nxt } else t.timers[n]

/-- A timer's event in a cycle depends on `ctrl` and on its own registers alone. -/
theorem raisedBy_congr {t u : TimerBlock} (clk1 : Bool) (n : TimerIx) (hc : u.ctrl = t.ctrl)
    (hn : u.timers[n] = t.timers[n]) : u.raisedBy clk1 n = t.raisedBy clk1 n := by
  unfold TimerBlock.raisedBy TimerBlock.countsThisCycle TimerBlock.eventsOf TimerBlock.countStepOf
  rw [hc, hn]

/-- Timer `m`'s registers when timer `n` makes its count step of the cycle. -/
theorem counted_get (t : TimerBlock) (clk1 : Bool) (n m : TimerIx) :
    (t.counted clk1 n)[m] =
      if n = m ∧ t.countsThisCycle clk1 n = true then { t.timers[m] with cnt := (t.countStepOf m).nxt } else t.timers[m] := by
  unfold TimerBlock.counted
  by_cases h : n = m
  · subst h; split <;> simp_all
  · have : n.val ≠ m.val := fun e => h (Fin.ext e)
    split <;> simp [h, this]

theorem raised_eq (t : TimerBlock) (clk1 : Bool) :
    t.raised clk1 = t.raisedBy clk1 0 ++ t.raisedBy clk1 1 ++ t.raisedBy clk1 2 := by
  have g : ∀ n, t.raisedBy clk1 n =
      (if t.countsThisCycle clk1 n ∧ t.eventsOf n ≠ 0#3 then some (n, t.eventsOf n) else none).toList := by
    intro n; unfold TimerBlock.raisedBy; split <;> rfl
  rw [g, g, g]
  simp only [TimerBlock.raised, List.filterMap_cons, List.filterMap_nil]
  generalize (if t.countsThisCycle clk1 0 = true ∧ t.eventsOf 0 ≠ 0#3 then some ((0 : TimerIx), t.eventsOf 0) else none) = a
  generalize (if t.countsThisCycle clk1 1 = true ∧ t.eventsOf 1 ≠ 0#3 then some ((1 : TimerIx), t.eventsOf 1) else none) = b
  generalize (if t.countsThisCycle clk1 2 = true ∧ t.eventsOf 2 ≠ 0#3 then some ((2 : TimerIx), t.eventsOf 2) else none) = c
  cases a <;> cases b <;> cases c <;> rfl

/-- All that phase 2 of a cycle does: the three timers' parts in order, as one (R140). -/
theorem phase2_eq (t : TimerBlock) (c : Config) (clk1 : Bool) :
    (((Ticking.mk t []).countTimer c clk1 0).countTimer c clk1 1).countTimer c clk1 2 =
      ⟨{ t with
          timers := t.countedAll clk1
          delayStatus := pushed c.pipeCap t.delayStatus (statusEntryOf c) (t.raised clk1)
          delayIntrpt := pushed c.pipeCap t.delayIntrpt (intrptEntryOf c) (t.raised clk1) },
       overruns c.pipeCap t.delayStatus.length t.delayIntrpt.length (t.raised clk1)⟩ := by
  obtain ⟨u, hu⟩ : ∃ u, u = (Ticking.mk t []).countTimer c clk1 0 := ⟨_, rfl⟩
  obtain ⟨v, hv⟩ : ∃ v, v = u.countTimer c clk1 1 := ⟨_, rfl⟩
  have hu' := hu; have hv' := hv
  rw [countTimer_eq] at hu' hv'
  have huc : u.block.ctrl = t.ctrl := by rw [hu']
  have hut : u.block.timers = t.counted clk1 0 := by rw [hu']
  have hvc : v.block.ctrl = t.ctrl := by rw [hv', huc]
  have hvt : v.block.timers = u.block.counted clk1 1 := by rw [hv']
  have u1 : u.block.timers[(1 : Fin 3)] = t.timers[(1 : Fin 3)] := by rw [hut, counted_get]; simp
  have v2 : v.block.timers[(2 : Fin 3)] = t.timers[(2 : Fin 3)] := by rw [hvt, counted_get, hut, counted_get]; simp
  have cnt1 : u.block.countsThisCycle clk1 1 = t.countsThisCycle clk1 1 := by simp [TimerBlock.countsThisCycle, huc]
  have cnt2 : v.block.countsThisCycle clk1 2 = t.countsThisCycle clk1 2 := by simp [TimerBlock.countsThisCycle, hvc]
  have st1 : u.block.countStepOf 1 = t.countStepOf 1 := by simp only [TimerBlock.countStepOf, huc, u1]
  have st2 : v.block.countStepOf 2 = t.countStepOf 2 := by simp only [TimerBlock.countStepOf, hvc, v2]
  have timers : v.block.counted clk1 2 = t.countedAll clk1 := by
    have key : ∀ m : Fin 3, (v.block.counted clk1 2)[m] = (t.countedAll clk1)[m] := by
      intro m
      have hall : (t.countedAll clk1)[m] =
          if t.countsThisCycle clk1 m = true then { t.timers[m] with cnt := (t.countStepOf m).nxt } else t.timers[m] := by
        simp [TimerBlock.countedAll]
      rw [counted_get, hall, hvt, counted_get, hut, counted_get]
      match m with
      | 0 => simp
      | 1 => rw [cnt1, st1]; simp
      | 2 => rw [cnt2, st2]; simp
    ext m hm : 1
    exact key ⟨m, hm⟩
  rw [← hu, ← hv, countTimer_eq, timers, raisedBy_congr clk1 2 hvc v2, hv', raisedBy_congr clk1 1 huc u1, hu']
  simp only [pushed_pushed, overruns_append, List.nil_append, raised_eq]

/-- All that a block cycle does to the TimerBlock, and all it reports (R140). -/
theorem cycle_eq (t : TimerBlock) (c : Config) (clk1 : Bool) :
    t.cycle c clk1 =
      ⟨{ t with
          timers := t.countedAll clk1
          status := t.statusAfterAge
          irq := t.irqAfterAge
          delayStatus := pushed c.pipeCap t.keptStatus (statusEntryOf c) (t.raised clk1)
          delayIntrpt := pushed c.pipeCap t.keptIntrpt (intrptEntryOf c) (t.raised clk1) },
       overruns c.pipeCap t.keptStatus.length t.keptIntrpt.length (t.raised clk1)⟩ := by
  unfold TimerBlock.cycle
  rw [phase2_eq, pipeAge_eq]
  rfl

end Sys2Proof.Machine
end

