-- ==== Sys2Proof/Tests/Slice0.lean ====
section
/-!
SUPPORT. The model's own tests. Expected values come from 95_test_vectors.md (each named) or are worked from the rule
named. Words are written out from the formats of R80 and the offset maps of R84 and R86. The last part shows, for each
statement with hypotheses, states and operands that meet them.
-/

namespace Sys2Proof.Tests

open Sys2Proof Sys2Proof.Machine

set_option maxRecDepth 20000

/-! ## Helpers -/

/-- The test configuration of 95_test_vectors.md section 0: delays 1 and 2, capacity 6, revision 0x00010801. -/
def testConfig : Config := ⟨0x00010801#32, 0, 1, 5⟩

/-- Vector T7's configuration: capacity 1. -/
def tinyConfig : Config := ⟨0x00010801#32, 0, 1, 0⟩

/-- The TimerBlock after reset under the test configuration. -/
def idle : TimerBlock := TimerBlock.reset 0x00010801#32

/-- `idle` with timer 0's registers and `ctrl`. -/
def timer0 (cnt rld m0 m1 : Word) (ctrl : BitVec 12) : TimerBlock :=
  { idle with timers := #v[⟨cnt, rld, m0, m1⟩, TimerRegs.reset, TimerRegs.reset], ctrl := ctrl }

/-- `idle` with timer 1's registers and `ctrl`. -/
def timer1 (cnt rld m0 m1 : Word) (ctrl : BitVec 12) : TimerBlock :=
  { idle with timers := #v[TimerRegs.reset, ⟨cnt, rld, m0, m1⟩, TimerRegs.reset], ctrl := ctrl }

/-- A CryptoBlock with `B[0]`, `B[15]` and `last`. -/
def crypto (b0 b15 : Word) (last : WordIndex) : CryptoBlock :=
  { CryptoBlock.reset with block := (CryptoBlock.reset.block.set 0 b0).set 15 b15, last := last }

/-- Lock inputs that lock nothing, reads alone, writes alone, both. -/
def openLocks : Locks := ⟨true, false⟩
def readLocked : Locks := ⟨false, false⟩
def writeLocked : Locks := ⟨true, true⟩
def bothLocked : Locks := ⟨false, true⟩

/-- A state with the two blocks and one issued transaction. -/
def issued (t : TimerBlock) (c : CryptoBlock) (tx : Transaction) : State := ⟨t, c, [tx], none, []⟩

/-- The two blocks and no transaction. -/
def still (t : TimerBlock) (c : CryptoBlock) : State := ⟨t, c, [], none, []⟩

/-- What a reader sees of an outcome. -/
def replyOf : Result → Option Byte
  | .next t => t.reply
  | .fault _ => none
  | .refused _ => none

def timerOf : Result → Option TimerBlock
  | .next t => some t.timer
  | .fault _ => none
  | .refused _ => none

def cryptoOf : Result → Option CryptoBlock
  | .next t => some t.crypto
  | .fault _ => none
  | .refused _ => none

def refusalOf : Result → Option Refusal
  | .next _ => none
  | .fault _ => none
  | .refused r => some r

/-- The outcome of a TIMER word with a data byte. -/
def ta (t : TimerBlock) (w : BitVec 10) (b : Byte) : Result := step (issued t CryptoBlock.reset ⟨.ta w, b, openLocks⟩)

/-- The outcome of a CRYPTO word under lock inputs. -/
def ca (c : CryptoBlock) (w : BitVec 10) (b : Byte) (l : Locks) : Result := step (issued idle c ⟨.ca w, b, l⟩)

/-! ## WellFormed: each check refuses an ill-formed term -/

theorem test_wf_refuses_oor_a_inside : (Instr.trdOorA .normal 0x3F#8).wf = false ∧ (Instr.twrOorA .normal 0x3F#8 0#8).wf = false := by decide
theorem test_wf_refuses_oor_a_above : (Instr.trdOorA .normal 0x80#8).wf = false ∧ (Instr.twrOorA .normal 0x80#8 0#8).wf = false := by decide
theorem test_wf_refuses_oor_b_below : (Instr.trdOorB .normal 0x7F#8).wf = false ∧ (Instr.twrOorB .normal 0x7F#8 0#8).wf = false := by decide
theorem test_wf_refuses_block_a : (Instr.crdBlockA .inspect 4 0).wf = false ∧ (Instr.cwrBlockA .inspect 4 0 0).wf = false := by decide
theorem test_wf_refuses_block_b : (Instr.crdBlockB .inspect 3 0).wf = false ∧ (Instr.cwrBlockB .inspect 12 0 0).wf = false := by decide
theorem test_wf_refuses_block_c : (Instr.crdBlockC .inspect 11 0).wf = false ∧ (Instr.cwrBlockC .inspect 11 0 0).wf = false := by decide
theorem test_wf_refuses_read_none_of_a_register :
    (Instr.crdNone .inspect 0x0C#8).wf = false ∧ (Instr.crdNone .inspect 0x4F#8).wf = false ∧ (Instr.crdNone .inspect 0x60#8).wf = false := by decide
theorem test_wf_refuses_write_none_of_a_register :
    (Instr.cwrNone .inspect 0x00#8 0).wf = false ∧ (Instr.cwrNone .inspect 0x10#8 0).wf = false ∧ (Instr.cwrNone .inspect 0x7F#8 0).wf = false := by decide

/-! ## Decoding: a word of every row, from R80, R84, R86; those of 95_test_vectors.md 2.1 among them -/

/-- A TA word with data 0x5A. -/
def readsTa (w : BitVec 10) (i : Instr) : Bool := decide (decode ⟨.ta w, 0x5A#8, openLocks⟩ = .ok i)
/-- A CA word with data 0x5A and open locks. -/
def readsCa (w : BitVec 10) (i : Instr) : Bool := decide (decode ⟨.ca w, 0x5A#8, openLocks⟩ = .ok i)
/-- An EV word. -/
def readsEv (w : BitVec 4) (i : Instr) : Bool := decide (decode ⟨.ev w, 0#8, openLocks⟩ = .ok i)

theorem test_decode_timer0_reads :
    readsTa 0x000#10 (.trdCnt0 .normal 0) ∧ readsTa 0x206#10 (.trdRld0 .inspect 2) ∧
    readsTa 0x009#10 (.trdM00 .normal 1) ∧ readsTa 0x20F#10 (.trdM10 .inspect 3) := by decide
theorem test_decode_timer1_reads :
    readsTa 0x210#10 (.trdCnt1 .inspect 0) ∧ readsTa 0x015#10 (.trdRld1 .normal 1) ∧
    readsTa 0x01B#10 (.trdM01 .normal 3) ∧ readsTa 0x01E#10 (.trdM11 .normal 2) := by decide
theorem test_decode_timer2_reads :
    readsTa 0x023#10 (.trdCnt2 .normal 3) ∧ readsTa 0x226#10 (.trdRld2 .inspect 2) ∧
    readsTa 0x029#10 (.trdM02 .normal 1) ∧ readsTa 0x02C#10 (.trdM12 .normal 0) := by decide
theorem test_decode_shared_reads :
    readsTa 0x031#10 (.trdCtrl .normal 1) ∧ readsTa 0x034#10 (.trdStatus .normal 0) ∧
    readsTa 0x239#10 (.trdMask .inspect 1) ∧ readsTa 0x03E#10 (.trdRev .normal 2) ∧
    readsTa 0x240#10 (.trdOorA .inspect 0x40) ∧ readsTa 0x0FF#10 (.trdOorB .normal 0xFF) := by decide
theorem test_decode_timer0_writes :
    readsTa 0x100#10 (.twrCnt0 .normal 0 0x5A) ∧ readsTa 0x307#10 (.twrRld0 .inspect 3 0x5A) ∧
    readsTa 0x10A#10 (.twrM00 .normal 2 0x5A) ∧ readsTa 0x10D#10 (.twrM10 .normal 1 0x5A) := by decide
theorem test_decode_timer1_writes :
    readsTa 0x113#10 (.twrCnt1 .normal 3 0x5A) ∧ readsTa 0x114#10 (.twrRld1 .normal 0 0x5A) ∧
    readsTa 0x319#10 (.twrM01 .inspect 1 0x5A) ∧ readsTa 0x11E#10 (.twrM11 .normal 2 0x5A) := by decide
theorem test_decode_timer2_writes :
    readsTa 0x121#10 (.twrCnt2 .normal 1 0x5A) ∧ readsTa 0x126#10 (.twrRld2 .normal 2 0x5A) ∧
    readsTa 0x328#10 (.twrM02 .inspect 0 0x5A) ∧ readsTa 0x12F#10 (.twrM12 .normal 3 0x5A) := by decide
theorem test_decode_shared_writes :
    readsTa 0x330#10 (.twrCtrl .inspect 0 0x5A) ∧ readsTa 0x135#10 (.twrStatus .normal 1 0x5A) ∧
    readsTa 0x138#10 (.twrMask .normal 0 0x5A) ∧ readsTa 0x13D#10 (.twrRev .normal 1 0x5A) ∧
    readsTa 0x17F#10 (.twrOorA .normal 0x7F 0x5A) ∧ readsTa 0x1B4#10 (.twrOorB .normal 0xB4 0x5A) := by decide
theorem test_decode_crypto_reads :
    readsCa 0x00F#10 (.crdLast (.normal openLocks) 3) ∧ readsCa 0x01F#10 (.crdBlockA (.normal openLocks) 3 3) ∧
    readsCa 0x221#10 (.crdBlockB .inspect 4 1) ∧ readsCa 0x03E#10 (.crdBlockB (.normal openLocks) 11 2) ∧
    readsCa 0x040#10 (.crdBlockC (.normal openLocks) 12 0) ∧ readsCa 0x07F#10 (.crdState (.normal openLocks) 7 3) ∧
    readsCa 0x260#10 (.crdState .inspect 0 0) := by decide
theorem test_decode_crypto_reads_of_nothing :
    readsCa 0x000#10 (.crdNone (.normal openLocks) 0x00) ∧ readsCa 0x20B#10 (.crdNone .inspect 0x0B) ∧
    readsCa 0x050#10 (.crdNone (.normal openLocks) 0x50) ∧ readsCa 0x05F#10 (.crdNone (.normal openLocks) 0x5F) ∧
    readsCa 0x080#10 (.crdNone (.normal openLocks) 0x80) := by decide
theorem test_decode_crypto_writes :
    readsCa 0x100#10 (.cwrCtrl (.normal openLocks) 0x5A) ∧ readsCa 0x10C#10 (.cwrLast (.normal openLocks) 0 0x5A) ∧
    readsCa 0x312#10 (.cwrBlockA .inspect 0 2 0x5A) ∧ readsCa 0x120#10 (.cwrBlockB (.normal openLocks) 4 0 0x5A) ∧
    readsCa 0x14F#10 (.cwrBlockC (.normal openLocks) 15 3 0x5A) ∧ readsCa 0x160#10 (.cwrState (.normal openLocks) 0 0 0x5A) ∧
    readsCa 0x101#10 (.cwrNone (.normal openLocks) 0x01 0x5A) ∧ readsCa 0x180#10 (.cwrNone (.normal openLocks) 0x80 0x5A) := by decide
theorem test_decode_events :
    readsEv 0x0#4 (.tcycle false) ∧ readsEv 0x1#4 (.tcycle true) ∧ readsEv 0x4#4 .treset ∧ readsEv 0x8#4 .creset := by decide

/-- "0x2, 0x3, 0x5, 0x6, 0x7, 0x9 to 0xF: refused, no event" (95_test_vectors.md 2.1, R91). -/
theorem test_step_refuses_reserved_events :
    ∀ w ∈ [0x2#4, 0x3#4, 0x5#4, 0x6#4, 0x7#4, 0x9#4, 0xA#4, 0xB#4, 0xC#4, 0xD#4, 0xE#4, 0xF#4],
      refusalOf (step (issued idle CryptoBlock.reset ⟨.ev w, 0#8, openLocks⟩)) = some (.reservedEvent w) := by decide

/-- The instructions of `oneOfEach` are of 52 different rows, and their mnemonics are all different. -/
theorem test_rows_are_52 : opcodeRows.length = 52 ∧ (opcodeRows.map Row.mnemonic).Nodup := by decide

/-! ## The host's two questions -/

theorem test_table_word_reads : decodeTableWord 16 0x03C = some (.trdRev .normal 0) ∧ decodeTableWord 16 0x10C = some (.twrM10 .normal 0 0) ∧
    decodeTableWord 8 0x4 = some .treset ∧ decodeTableWord 8 0x2 = none ∧ decodeTableWord 16 0x400 = none := by decide

/-- The placed word is the very next transaction the step takes, at the reset blocks. -/
theorem test_step_runs_placed_word :
    replyOf (step ((still idle CryptoBlock.reset).withFetchWord 16 0x03C)) = some 0x01#8 ∧
    timerOf (step ((still idle CryptoBlock.reset).withFetchWord 8 0x4)) = some idle := by decide

/-! ## TIMER accesses (95_test_vectors.md 2.2) -/

/-- A2: `rld[0] = 0x12345678` reads 78, 56, 34, 12. -/
theorem test_trd_rld0_lanes :
    (List.map (fun w => replyOf (ta (timer0 0 0x12345678 0 0 0) w 0)) [0x004#10, 0x005#10, 0x006#10, 0x007#10]) =
      [some 0x78#8, some 0x56#8, some 0x34#8, some 0x12#8] := by decide

/-- A25 on each of timer 1's registers: lane 0 and lane 3 of distinct values. -/
theorem test_trd_timer1_registers :
    (List.map (fun w => replyOf (ta (timer1 0xCAFEBABE 0x11223344 0x55667788 0x99AABBCC 0) w 0)) [0x010#10, 0x017#10, 0x018#10, 0x01F#10]) =
      [some 0xBE#8, some 0x11#8, some 0x88#8, some 0x99#8] := by decide

/-- A9: `ctrl = 0xFFF` reads FF, 0F, 00, 00. -/
theorem test_trd_ctrl_missing_bits_read_zero :
    (List.map (fun w => replyOf (ta { idle with ctrl := 0xFFF#12 } w 0)) [0x030#10, 0x031#10, 0x032#10, 0x033#10]) =
      [some 0xFF#8, some 0x0F#8, some 0x00#8, some 0x00#8] := by decide

/-- A11 and A13: the revision, and 0 outside the window. -/
theorem test_trd_revision_and_outside :
    (List.map (fun w => replyOf (ta idle w 0)) [0x03C#10, 0x03D#10, 0x03E#10, 0x03F#10, 0x040#10, 0x07F#10, 0x080#10, 0x0FF#10]) =
      [some 0x01#8, some 0x08#8, some 0x01#8, some 0x00#8, some 0x00#8, some 0x00#8, some 0x00#8, some 0x00#8] := by decide

/-- A3 and A5: one byte of `rld[0]`, by a write and by a poke. -/
theorem test_twr_rld0_one_byte :
    timerOf (ta (timer0 0 0x12345678 0 0 0) 0x106#10 0xAB#8) = some (timer0 0 0x12AB5678 0 0 0) ∧
    timerOf (ta (timer0 0 0x12AB5678 0 0 0) 0x307#10 0x00#8) = some (timer0 0 0x00AB5678 0 0 0) := by decide

/-- A6: writing the counter raises no event, even on a match value. -/
theorem test_twr_cnt0_no_event : timerOf (ta (timer0 0 0 5 0 0) 0x100#10 0x05#8) = some (timer0 5 0 5 0 0) := by decide

/-- A24: lane 3 of `m1[2]`. -/
theorem test_twr_m12_lane3 :
    timerOf (ta idle 0x12F#10 0x80#8) =
      some { idle with timers := #v[TimerRegs.reset, TimerRegs.reset, ⟨0, 0, 0, 0x80000000⟩] } := by decide

/-- A7, A8: lane 1 of `ctrl` keeps bits 11:8 only. -/
theorem test_twr_ctrl_lanes :
    timerOf (ta idle 0x130#10 0xFF#8) = some { idle with ctrl := 0x0FF#12 } ∧
    timerOf (ta { idle with ctrl := 0x0FF#12 } 0x131#10 0xFF#8) = some { idle with ctrl := 0xFFF#12 } := by decide

/-- A18 to A20: write 1 to clear, and bits that do not exist. -/
theorem test_twr_status_clears_ones :
    (timerOf (ta { idle with status := 0x1FF#9, mask := 0x1FF#9 } 0x134#10 0x0F#8)).map TimerBlock.status = some 0x1F0#9 ∧
    (timerOf (ta { idle with status := 0x1F0#9, mask := 0x1FF#9 } 0x135#10 0x01#8)).map TimerBlock.status = some 0x0F0#9 ∧
    (timerOf (ta { idle with status := 0x0F0#9, mask := 0x1FF#9 } 0x135#10 0xFE#8)).map TimerBlock.status = some 0x0F0#9 := by decide

/-- A15, A16: the mask keeps nine bits. -/
theorem test_twr_mask_keeps_nine_bits :
    (timerOf (ta idle 0x139#10 0xFF#8)).map TimerBlock.mask = some 0x100#9 ∧
    (timerOf (ta { idle with mask := 0x100#9 } 0x138#10 0xFF#8)).map TimerBlock.mask = some 0x1FF#9 := by decide

/-- A21 to A23: the line follows the mask and the status at once. -/
theorem test_twr_mask_and_status_move_the_line :
    timerOf (ta { idle with status := 1#9, irq := #v[true, false, false] } 0x138#10 0x01#8) = some { idle with status := 1#9, mask := 1#9 } ∧
    timerOf (ta { idle with status := 1#9, mask := 1#9 } 0x138#10 0x00#8) = some { idle with status := 1#9, irq := #v[true, false, false] } ∧
    timerOf (ta { idle with status := 1#9, irq := #v[true, false, false] } 0x134#10 0x01#8) = some idle := by decide

/-- A12, A14: no effect. -/
theorem test_twr_revision_and_outside_ignored :
    timerOf (ta idle 0x13C#10 0xFF#8) = some idle ∧ timerOf (ta idle 0x180#10 0x55#8) = some idle ∧
    timerOf (ta idle 0x140#10 0x55#8) = some idle := by decide

/-! ## Block cycles (95_test_vectors.md 2.3), one cycle each, under the test configuration -/

/-- L1-1 after c4: the wrap reloads 3 and pushes both entries. -/
theorem test_cycle_wrap_pushes_overflow :
    ((timer0 0 3 0xFFFFFFFF 0xFFFFFFFF 0x005).cycle testConfig false).block =
      { timer0 3 3 0xFFFFFFFF 0xFFFFFFFF 0x005 with delayStatus := [⟨0x004#9, 1⟩], delayIntrpt := [⟨0b001#3, 2⟩] } := by decide

/-- L1-1 after c5: the overflow bit is visible, the line is not. -/
theorem test_cycle_status_matures :
    (({ timer0 3 3 0xFFFFFFFF 0xFFFFFFFF 0x005 with delayStatus := [⟨0x004#9, 1⟩], delayIntrpt := [⟨0b001#3, 2⟩] } : TimerBlock).cycle
        testConfig false).block =
      { timer0 2 3 0xFFFFFFFF 0xFFFFFFFF 0x005 with status := 0x004#9, delayIntrpt := [⟨0b001#3, 1⟩] } := by decide

/-- L1-1 after c6: the line. -/
theorem test_cycle_line_matures :
    (({ timer0 2 3 0xFFFFFFFF 0xFFFFFFFF 0x005 with status := 0x004#9, delayIntrpt := [⟨0b001#3, 1⟩] } : TimerBlock).cycle
        testConfig false).block =
      { timer0 1 3 0xFFFFFFFF 0xFFFFFFFF 0x005 with status := 0x004#9, irq := #v[true, false, false] } := by decide

/-- T5 after c4: a masked bit matures no line. -/
theorem test_cycle_masked_line_stays_low :
    (({ timer0 5 5 0 0xFFFFFFFF 0x001 with status := 1#9, mask := 1#9, delayIntrpt := [⟨0b001#3, 1⟩] } : TimerBlock).cycle
        testConfig false).block =
      { timer0 4 5 0 0xFFFFFFFF 0x001 with status := 1#9, mask := 1#9 } := by decide

/-- T2 after c1 and c2: counting up, the wrap is from 0xFFFFFFFF, and 0 is never produced. -/
theorem test_cycle_up_wrap :
    ((timer1 0xFFFFFFFE 0x10 0 0 0x428).cycle testConfig false).block = timer1 0xFFFFFFFF 0x10 0 0 0x428 ∧
    ((timer1 0xFFFFFFFF 0x10 0 0 0x428).cycle testConfig false).block =
      { timer1 0x10 0x10 0 0 0x428 with delayStatus := [⟨0x020#9, 1⟩], delayIntrpt := [⟨0b010#3, 2⟩] } := by decide

/-- T3: a match on the reloaded value, together with the overflow. -/
theorem test_cycle_match_on_reload : (timer0 0 5 5 0xFFFFFFFF 0x005).eventsOf 0 = 0b101#3 := by decide

/-- T4: both matches and no overflow while `OFE` is 0. -/
theorem test_cycle_all_zero_timer : (timer0 0 0 0 0 0x001).eventsOf 0 = 0b011#3 := by decide

/-- T6: the alternate clock counts on TCYCLE1 alone. -/
theorem test_cycle_alternate_clock :
    (({ idle with timers := #v[TimerRegs.reset, TimerRegs.reset, ⟨10, 0, 0, 0⟩], ctrl := 0x0C0 } : TimerBlock).cycle testConfig true).block.timers[2].cnt = 9 ∧
    (({ idle with timers := #v[TimerRegs.reset, TimerRegs.reset, ⟨9, 0, 0, 0⟩], ctrl := 0x0C0 } : TimerBlock).cycle testConfig false).block.timers[2].cnt = 9 := by decide

/-- T7 after c1: the second timer's two entries are dropped and reported. -/
theorem test_cycle_overrun :
    let t : TimerBlock := { idle with timers := #v[⟨1, 9, 0, 0xFFFFFFFF⟩, ⟨1, 9, 0, 0xFFFFFFFF⟩, TimerRegs.reset], ctrl := 0x009 }
    (t.cycle tinyConfig false).block.delayStatus = [⟨1#9, 1⟩] ∧ (t.cycle tinyConfig false).block.delayIntrpt = [⟨1#3, 2⟩] ∧
    (t.cycle tinyConfig false).diags = [.pipeOverrun, .pipeOverrun] := by decide

/-- T10: a disabled timer holds and pushes nothing. -/
theorem test_cycle_disabled : ((timer0 0 3 3 3 0x004).cycle testConfig true).block = timer0 0 3 3 3 0x004 := by decide

/-! ## CRYPTO accesses (95_test_vectors.md 2.4) -/

/-- K1 and K2: a block byte is written and read back; both record word index 4. -/
theorem test_crypto_block_byte :
    cryptoOf (ca CryptoBlock.reset 0x110#10 0x80#8 openLocks) = some (crypto 0x80 0 0x04) ∧
    replyOf (ca (crypto 0x80 0 0x04) 0x010#10 0 openLocks) = some 0x80#8 := by decide

/-- K4 to K8: what unlocked reads record. -/
theorem test_crypto_reads_record_the_index :
    (List.map (fun w => (cryptoOf (ca (crypto 0x80 0 0x04) w 0 openLocks)).map CryptoBlock.last) [0x04C#10, 0x060#10, 0x00C#10, 0x000#10, 0x055#10]) =
      [some 0x13#6, some 0x18#6, some 0x03#6, some 0x00#6, some 0x15#6] := by decide

/-- The last-word shortcut and the last state word read `H[7]` (R186, R187); the blocks at each side of the row bounds. -/
theorem test_crypto_reads_hash_and_block :
    replyOf (ca { CryptoBlock.reset with hash := shaIV } 0x00F#10 0 openLocks) = some 0x5B#8 ∧
    replyOf (ca { CryptoBlock.reset with hash := shaIV } 0x07F#10 0 openLocks) = some 0x5B#8 ∧
    replyOf (ca { CryptoBlock.reset with hash := shaIV } 0x060#10 0 openLocks) = some 0x67#8 ∧
    replyOf (ca { CryptoBlock.reset with block := CryptoBlock.reset.block.set 3 0x11223344 } 0x01F#10 0 openLocks) = some 0x11#8 ∧
    replyOf (ca { CryptoBlock.reset with block := CryptoBlock.reset.block.set 4 0x11223344 } 0x021#10 0 openLocks) = some 0x33#8 := by decide

/-- K9 to K12: writes with no data effect record their index. -/
theorem test_crypto_writes_without_data_effect :
    (List.map (fun w => cryptoOf (ca (crypto 0x80 0 0x04) w 0x0A#8 openLocks)) [0x160#10, 0x10C#10, 0x180#10, 0x101#10]) =
      [some (crypto 0x80 0 0x18), some (crypto 0x80 0 0x03), some (crypto 0x80 0 0x20), some (crypto 0x80 0 0x00)] := by decide

/-- K13 to K16: locked reads replay the word `last` names, at the current lane. -/
theorem test_crypto_locked_reads_replay :
    replyOf (ca (crypto 0x80 0 0x00) 0x010#10 0 readLocked) = some 0x00#8 ∧
    replyOf (ca (crypto 0x80 0 0x04) 0x060#10 0 readLocked) = some 0x80#8 ∧
    cryptoOf (ca (crypto 0x80 0 0x04) 0x063#10 0 bothLocked) = some (crypto 0x80 0 0x04) := by decide

/-- K14 and L1-2: a locked write is dropped and records its index. -/
theorem test_crypto_locked_write_dropped : cryptoOf (ca (crypto 0x80 0 0x00) 0x111#10 0x77#8 writeLocked) = some (crypto 0x80 0 0x04) := by decide

/-- K17 to K19: peek and poke bypass both locks and keep `last`. -/
theorem test_crypto_peek_and_poke :
    replyOf (ca (crypto 0x80 0 0x04) 0x260#10 0 bothLocked) = some 0x00#8 ∧
    cryptoOf (ca (crypto 0x80 0 0x04) 0x312#10 0x5A#8 bothLocked) = some (crypto 0x005A0080 0 0x04) ∧
    replyOf (ca (crypto 0x005A0080 0 0x04) 0x212#10 0 bothLocked) = some 0x5A#8 := by decide

/-- The control-byte classes: how many of the 256 values each has (95_test_vectors.md 2.5). -/
theorem test_control_byte_classes :
    let vs := (List.range 256).map (BitVec.ofNat 8)
    vs.countP (fun v => selectsZero v) = 128 ∧
    vs.countP (fun v => !selectsZero v && selectsInit v && selectsCompress v) = 16 ∧
    vs.countP (fun v => !selectsZero v && !selectsInit v && selectsCompress v) = 16 ∧
    vs.countP (fun v => !selectsZero v && !selectsInit v && !selectsCompress v) = 96 := by decide

/-- S6, S7, S8: ZERO only, no operation, and a locked control write. -/
theorem test_control_zero_none_locked :
    cryptoOf (ca { crypto 0x80 0 0x04 with hash := shaIV } 0x100#10 0x10#8 openLocks) = some (crypto 0x80 0 0x00) ∧
    cryptoOf (ca { crypto 0x80 0 0x04 with hash := shaIV } 0x100#10 0x05#8 openLocks) = some { crypto 0x80 0 0x00 with hash := shaIV } ∧
    cryptoOf (ca { crypto 0x80 0 0x04 with hash := shaIV } 0x100#10 0x0A#8 writeLocked) = some { crypto 0x80 0 0x00 with hash := shaIV } := by decide

/-- S1: the digest of "abc". -/
theorem test_compress_abc :
    shaCompress shaIV (crypto 0x61626380 0x00000018 0).block =
      #v[0xba7816bf#32, 0x8f01cfea#32, 0x414140de#32, 0x5dae2223#32, 0xb00361a3#32, 0x96177a9c#32, 0xb410ff61#32, 0xf20015ad#32] := by
  decide +kernel

/-- S2: the same block again, by COMPRESS alone, through the control byte. -/
theorem test_control_compress_again :
    (({ crypto 0x61626380 0x00000018 0 with hash :=
        #v[0xba7816bf#32, 0x8f01cfea#32, 0x414140de#32, 0x5dae2223#32, 0xb00361a3#32, 0x96177a9c#32, 0xb410ff61#32, 0xf20015ad#32] } :
        CryptoBlock).controlOp 0x0E#8).hash =
      #v[0x1de51655#32, 0xe1a8ca5f#32, 0x570c062c#32, 0x6fef497d#32, 0xd8110762#32, 0xbd8a7a48#32, 0xdd95482f#32, 0x7d22e0a2#32] := by
  decide +kernel

/-! ## Resets -/

/-- TRESET keeps `revision` alone and does not reach the CryptoBlock (R260). -/
theorem test_treset :
    timerOf (exec .treset (still { timer0 1 2 3 4 0xFFF with status := 1#9, delayStatus := [⟨1#9, 1⟩] } (crypto 1 2 3))) = some idle ∧
    cryptoOf (exec .treset (still idle (crypto 1 2 3))) = some (crypto 1 2 3) := by decide

/-- CRESET clears the CryptoBlock and does not reach the TimerBlock (R261). -/
theorem test_creset :
    cryptoOf (exec .creset (still idle { crypto 1 2 3 with hash := shaIV })) = some CryptoBlock.reset ∧
    timerOf (exec .creset (still (timer0 1 2 3 4 5) (crypto 1 2 3))) = some (timer0 1 2 3 4 5) := by decide

/-! ## Witnesses: what meets the hypotheses of each statement -/

theorem witness_DecodeOfEncodeIsTheInstruction : ∀ i ∈ oneOfEach, i.wf = true := by decide

theorem witness_DecodedInstructionSpellsItsWord : decode ⟨.ta 0x3FF#10, 0x5A#8, openLocks⟩ = .ok (.twrOorB .inspect 0xFF#8 0x5A#8) := by decide

theorem witness_ReservedEventWordsAreRefused :
    (issued idle CryptoBlock.reset ⟨.ev 0xC#4, 0#8, openLocks⟩).pending = [⟨.ev 0xC#4, 0#8, openLocks⟩] := by decide

theorem witness_StepRunsTheDecodedTransaction :
    (issued idle CryptoBlock.reset ⟨.ca 0x312#10, 0x5A#8, openLocks⟩).pending = [⟨.ca 0x312#10, 0x5A#8, openLocks⟩] ∧
    decode ⟨.ca 0x312#10, 0x5A#8, openLocks⟩ = .ok (.cwrBlockA .inspect 0 2 0x5A#8) := by decide

theorem witness_StepWithNothingPendingChangesNothing : (still idle CryptoBlock.reset).pending = [] := by decide

theorem witness_EveryAccessWordCompletes :
    (issued idle CryptoBlock.reset ⟨.ta 0x000#10, 0#8, openLocks⟩).pending = [⟨.ta 0x000#10, 0#8, openLocks⟩] ∧
    (issued idle CryptoBlock.reset ⟨.ca 0x3FF#10, 0#8, openLocks⟩).pending = [⟨.ca 0x3FF#10, 0#8, openLocks⟩] := by decide

/-- Any TIMER access may be the one transaction of a state. Meets TimerReadAnswersMappedByte and TimerWritesAreIdempotent. -/
theorem witness_TimerReadAnswersMappedByte : ∀ p w : Bool, ∀ off ∈ [0x00#8, 0x3F#8, 0x40#8, 0xFF#8],
    (issued idle CryptoBlock.reset (taTx p w off 0x5A#8 openLocks)).pending = [taTx p w off 0x5A#8 openLocks] := by decide

theorem witness_TimerWritesAreIdempotent :
    (issued idle CryptoBlock.reset (taTx false true 0x34#8 0x01#8 openLocks)).pending = [taTx false true 0x34#8 0x01#8 openLocks] := by decide

theorem witness_TimerRegisterWriteReplacesOneByte : ∀ off ∈ [0x00#8, 0x2F#8],
    (issued idle CryptoBlock.reset (taTx true true off 0x5A#8 openLocks)).pending = [taTx true true off 0x5A#8 openLocks] ∧ off.toNat < 0x30 := by decide

theorem witness_ControlWriteReplacesExistingBits : ∀ off ∈ [0x30#8, 0x33#8],
    (issued idle CryptoBlock.reset (taTx false true off 0x5A#8 openLocks)).pending = [taTx false true off 0x5A#8 openLocks] ∧
    0x30 ≤ off.toNat ∧ off.toNat ≤ 0x33 := by decide

theorem witness_StatusWriteClearsOnes : ∀ off ∈ [0x34#8, 0x37#8],
    (issued idle CryptoBlock.reset (taTx false true off 0x5A#8 openLocks)).pending = [taTx false true off 0x5A#8 openLocks] ∧
    0x34 ≤ off.toNat ∧ off.toNat ≤ 0x37 := by decide

theorem witness_MaskWriteReplacesExistingBits : ∀ off ∈ [0x38#8, 0x3B#8],
    (issued idle CryptoBlock.reset (taTx false true off 0x5A#8 openLocks)).pending = [taTx false true off 0x5A#8 openLocks] ∧
    0x38 ≤ off.toNat ∧ off.toNat ≤ 0x3B := by decide

theorem witness_RevisionAndOutsideWritesAreIgnored : ∀ off ∈ [0x3C#8, 0x3F#8, 0x40#8, 0xFF#8],
    (issued idle CryptoBlock.reset (taTx false true off 0x5A#8 openLocks)).pending = [taTx false true off 0x5A#8 openLocks] ∧
    0x3C ≤ off.toNat := by decide

theorem witness_OnlyCyclesAndTimerResetMovePipelines : (∀ clk1, Instr.creset ≠ .tcycle clk1) ∧ Instr.creset ≠ .treset := by decide

/-- A line that is asserted and justified. -/
theorem witness_InterruptLineIsLevel :
    ({ idle with status := 1#9, irq := #v[true, false, false] } : TimerBlock).irqJustified ∧ (#v[true, false, false] : Vector Bool 3)[(0 : TimerIx)] = true := by
  unfold TimerBlock.irqJustified; decide

/-- The reset state with one block cycle issued: the invariant holds and the step completes. -/
theorem witness_InvariantKeptByEveryStep :
    (State.reset.issueFirst ⟨.ev 0x1#4, 0#8, openLocks⟩).Inv ∧ ∃ t, step (State.reset.issueFirst ⟨.ev 0x1#4, 0#8, openLocks⟩) = .next t := by
  refine ⟨⟨rfl, ?_, ⟨Nat.zero_le _, ?_, List.Pairwise.nil⟩, ⟨Nat.zero_le _, ?_, List.Pairwise.nil⟩⟩, _, rfl⟩
  · intro n h
    simp [State.issueFirst, State.setPending, State.reset, TimerBlock.reset] at h
  · intro e h; cases h
  · intro e h; cases h

/-- The default capacity under the test delays, and the reset block under it. -/
theorem witness_DefaultCapacityNeverOverruns : pipesRoomy testConfig ∧ idle.Inv testConfig ∧ idle.threePerCycle := by
  refine ⟨by unfold pipesRoomy; decide, ⟨rfl, ?_, ⟨Nat.zero_le _, ?_, List.Pairwise.nil⟩, ⟨Nat.zero_le _, ?_, List.Pairwise.nil⟩⟩, ?_⟩
  · intro n h
    simp [idle, TimerBlock.reset] at h
  · intro e h; cases h
  · intro e h; cases h
  · intro r
    exact ⟨Nat.zero_le 3, Nat.zero_le 3⟩

/-- Timer 0 at its reload value on the block clock, down from `R = 3`: three count steps, the wrap next; then four. -/
theorem witness_CounterPeriod_down :
    (timer0 3 3 0 0 0x001).timers[0].cnt = 3 ∧ (timer0 3 3 0 0 0x001).timers[0].rld = 3 ∧ ctrlUp (timer0 3 3 0 0 0x001).ctrl 0 = false ∧
    (timer0 3 3 0 0 0x001).stepsIn [false, true, false] 0 = (3#32).toNat ∧
    (timer0 3 3 0 0 0x001).stepsIn [false, true, false, true] 0 = (3#32).toNat + 1 := by decide

/-- Timer 0 at its reload value on the alternate clock, up from `R = 0xFFFFFFFE`: one count step, the wrap next; then two. -/
theorem witness_CounterPeriod_up :
    (timer0 0xFFFFFFFE 0xFFFFFFFE 0 0 0x203).timers[0].cnt = 0xFFFFFFFE ∧ (timer0 0xFFFFFFFE 0xFFFFFFFE 0 0 0x203).timers[0].rld = 0xFFFFFFFE ∧
    ctrlUp (timer0 0xFFFFFFFE 0xFFFFFFFE 0 0 0x203).ctrl 0 = true ∧
    (timer0 0xFFFFFFFE 0xFFFFFFFE 0 0 0x203).stepsIn [false, true] 0 + 1 = 2 ^ 32 - (0xFFFFFFFE#32).toNat ∧
    (timer0 0xFFFFFFFE 0xFFFFFFFE 0 0 0x203).stepsIn [true, false, true] 0 = 2 ^ 32 - (0xFFFFFFFE#32).toNat := by decide

/-- Timer 0 counting down from 3 with a match at 1: the boundary is the second step, on the block clock and on the
alternate one. -/
theorem witness_WakeTimeIsFirstBoundary :
    (timer0 3 3 1 9 0x001).wakeTime 0 = some 2 ∧ (timer0 3 3 1 9 0x001).stepsIn [false] 0 < 2 ∧
    (timer0 3 3 1 9 0x003).wakeTime 0 = some 2 ∧ (timer0 3 3 1 9 0x003).stepsIn [false, true, false] 0 < 2 := by decide

/-- A down-counter from 3 never reaches 9. -/
theorem witness_UnreachableMatchNeverFires :
    matchDistance (ctrlUp (timer0 3 3 9 9 0x001).ctrl 0) (timer0 3 3 9 9 0x001).timers[0].cnt (timer0 3 3 9 9 0x001).timers[0].rld 9#32 = none := by decide

theorem witness_DueStatusEntryBecomesVisible :
    (⟨0x020#9, 2⟩ : StatusEntry) ∈ ({ idle with delayStatus := [⟨0x020#9, 2⟩] } : TimerBlock).delayStatus ∧
    (1 : Int) ≤ 2 ∧ (([false, true].length : Nat) : Int) = 2 := by decide

/-- One cycle is never more than either delay; an entry due in two cycles is not due in it. -/
theorem witness_StatusWaitsForDelay :
    (∀ e ∈ ({ idle with delayStatus := [⟨0x020#9, 2⟩] } : TimerBlock).delayStatus, (([true].length : Nat) : Int) < e.rem) ∧
    [true].length ≤ Config.params.statusDelay := by
  refine ⟨by decide, ?_⟩
  exact Nat.succ_le_succ (Nat.zero_le _)

theorem witness_InterruptLinesWaitForDelay :
    (∀ e ∈ ({ idle with delayIntrpt := [⟨0b010#3, 2⟩] } : TimerBlock).delayIntrpt, (([true].length : Nat) : Int) < e.rem) ∧
    [true].length ≤ Config.params.intrptDelay := by
  refine ⟨by decide, ?_⟩
  exact Nat.le_trans (Nat.succ_le_succ (Nat.zero_le _)) (Nat.le_add_right _ _)

theorem witness_UnlockedCryptoReadAnswersMappedByte : ∀ off ∈ [0x00#8, 0x0C#8, 0x10#8, 0x7F#8, 0xFF#8],
    (issued idle CryptoBlock.reset (caTx false false off 0 openLocks)).pending = [caTx false false off 0 openLocks] ∧ openLocks.opAllowed = true := by decide

theorem witness_LockedCryptoReadReplaysLast : ∀ off ∈ [0x00#8, 0x63#8, 0xFF#8],
    (issued idle (crypto 0x80 0 0x04) (caTx false false off 0 readLocked)).pending = [caTx false false off 0 readLocked] ∧ readLocked.opAllowed = false := by decide

theorem witness_CryptoPeekBypassesLock :
    (issued idle (crypto 0x80 0 0x04) (caTx true false 0x60#8 0 bothLocked)).pending = [caTx true false 0x60#8 0 bothLocked] := by decide

theorem witness_LockedCryptoWriteIsDropped : ∀ off ∈ [0x00#8, 0x10#8, 0x4F#8, 0xFF#8],
    (issued idle (crypto 0x80 0 0x04) (caTx false true off 0x0A#8 writeLocked)).pending = [caTx false true off 0x0A#8 writeLocked] ∧
    writeLocked.writeProtected = true := by decide

/-- Both ends of the block, by a poke under both locks and by an unlocked write. -/
theorem witness_BlockWriteReplacesOneByte : ∀ off ∈ [0x10#8, 0x4F#8],
    (issued idle CryptoBlock.reset (caTx true true off 0x5A#8 bothLocked)).pending = [caTx true true off 0x5A#8 bothLocked] ∧
    (issued idle CryptoBlock.reset (caTx false true off 0x5A#8 openLocks)).pending = [caTx false true off 0x5A#8 openLocks] ∧
    0x10 ≤ off.toNat ∧ off.toNat ≤ 0x4F ∧ openLocks.writeProtected = false := by decide

theorem witness_OtherCryptoWritesOnlyRecord : ∀ off ∈ [0x01#8, 0x0F#8, 0x50#8, 0x60#8, 0xFF#8],
    (issued idle CryptoBlock.reset (caTx false true off 0x5A#8 openLocks)).pending = [caTx false true off 0x5A#8 openLocks] ∧
    off.toNat ≠ 0x00 ∧ (off.toNat < 0x10 ∨ 0x50 ≤ off.toNat) ∧ openLocks.writeProtected = false := by decide

/-- A byte of each class, by an unlocked write and by a poke under both locks. -/
theorem witness_ControlByteSelectsOperations : ∀ v ∈ [0x10#8, 0xFF#8, 0x0A#8, 0x0B#8, 0x0E#8, 0x0F#8, 0xEE#8, 0x05#8],
    (issued idle CryptoBlock.reset (caTx false true 0x00#8 v openLocks)).pending = [caTx false true 0x00#8 v openLocks] ∧
    openLocks.writeProtected = false ∧
    (issued idle CryptoBlock.reset (caTx true true 0x00#8 v bothLocked)).pending = [caTx true true 0x00#8 v bothLocked] := by decide

theorem witness_PeekAndPokeKeepLast : ∀ w : Bool,
    (issued idle (crypto 0x80 0 0x04) (caTx true w 0x60#8 0 bothLocked)).pending = [caTx true w 0x60#8 0 bothLocked] := by decide

/-- Two machines whose other words differ agree on the word `last` names. -/
theorem witness_LockedReadsRevealOnlyTheLastWord :
    (issued idle (crypto 0x80 1 0x04) (caTx false false 0x60#8 0 readLocked)).pending = [caTx false false 0x60#8 0 readLocked] ∧
    (issued idle (crypto 0x80 2 0x04) (caTx false false 0x4C#8 0 bothLocked)).pending = [caTx false false 0x4C#8 0 bothLocked] ∧
    readLocked.opAllowed = false ∧ bothLocked.opAllowed = false ∧ (0x60#8).extractLsb' 0 2 = (0x4C#8).extractLsb' 0 2 ∧
    (crypto 0x80 1 0x04).windowWord ((crypto 0x80 1 0x04).last ++ 0#2) = (crypto 0x80 2 0x04).windowWord ((crypto 0x80 2 0x04).last ++ 0#2) := by decide

/-- The working variables of the sixty-four rounds exist: run the rounds one by one. -/
def roundsOf (hash : Vector Word 8) (block : Vector Word 16) : Nat → ShaVars
  | 0 => ⟨hash[0], hash[1], hash[2], hash[3], hash[4], hash[5], hash[6], hash[7]⟩
  | n + 1 => if h : n < 64 then shaRound shaK[n] ((shaSchedule block).getD n 0) (roundsOf hash block n) else roundsOf hash block n

theorem witness_CompressionIsSixtyFourRounds :
    let v := roundsOf shaIV CryptoBlock.reset.block
    v 0 = ⟨shaIV[0], shaIV[1], shaIV[2], shaIV[3], shaIV[4], shaIV[5], shaIV[6], shaIV[7]⟩ ∧
    ∀ t : Fin 64,
      let x := v t.val
      let t1 := x.h + shaBigS1 x.e + shaCh x.e x.f x.g + shaK[t] + (shaSchedule CryptoBlock.reset.block).getD t.val 0
      let t2 := shaBigS0 x.a + shaMaj x.a x.b x.c
      v (t.val + 1) = ⟨t1 + t2, x.a, x.b, x.c, x.d + t1, x.e, x.f, x.g⟩ := by
  refine ⟨rfl, fun t => ?_⟩
  simp only [roundsOf, t.isLt, dite_true]
  rfl

theorem witness_ResetsAreIdempotentAndGivePowerOnState : State.reset.timer.revision = Config.params.revision := rfl

theorem witness_CryptoReadsAreRepeatable : ∀ p : Bool,
    (issued idle (crypto 0x80 0 0x04) (caTx p false 0x60#8 0 readLocked)).pending = [caTx p false 0x60#8 0 readLocked] := by decide

theorem witness_BlocksDoNotInterfere :
    onTimer (.tcycle true) = true ∧ (still idle (crypto 1 2 3)).timer = (still idle (crypto 4 5 6)).timer ∧
    onTimer .creset = false ∧ (still idle (crypto 1 2 3)).crypto = (still (timer0 1 2 3 4 5) (crypto 1 2 3)).crypto := by decide

end Sys2Proof.Tests
end

section
/-! The step while the host has issued nothing. -/

namespace Sys2Proof.Machine

/-- The branch of `step` that finds no transaction (R2; log entry 3). -/
theorem step_of_fetch_none {s : State} (h : s.fetch = none) : step s = .next s := by
  simp only [step, h]

/-- Settles O7: with nothing pending the fetch finds no transaction, and the step then keeps the state. -/
theorem stepWithNothingPendingChangesNothing : Obligations.StepWithNothingPendingChangesNothing := by
  intro s hpending
  have hfetch : s.fetch = none := State.fetch_nil hpending
  exact step_of_fetch_none hfetch

end Sys2Proof.Machine
end

section
/-! What an instruction can do, said once: the shared operation behind each meaning, and what that leaves of each of
the two blocks. Invariants of the machine are derived from `exec_timer_cases` and `exec_crypto_cases`. -/

namespace Sys2Proof.Machine

/-! ## The shared operation behind each instruction -/

/-- `x` is the outcome of `i` at `s` by the shared operation that gives `i` its meaning. The instruction is named
where it is the only kind that has the effect (R26, R40, R41, R140, R260, R261). -/
inductive Meaning (i : Instr) (s : State) (x : Result) : Prop
  | timerRead (r : TimerReg) (k : Lane) (h : x = timerRead r k s)
  | timerWrite (r : TimerReg) (k : Lane) (b : Byte) (h : x = timerWrite r k b s)
      (hstatus : r = .status → ∃ p, i = .twrStatus p k b)
  | cryptoRead (a : Access) (idx : WordIndex) (k : Lane) (h : x = cryptoRead a idx k s)
  | control (a : Access) (v : Byte) (hi : i = .cwrCtrl a v)
      (h : x = cryptoWrite a (indexOf Config.ctrlOff) (fun c => c.controlOp v) s)
  | blockWrite (a : Access) (j : BitVec 4) (k : Lane) (b : Byte)
      (hi : i = .cwrBlockA a j k b ∨ i = .cwrBlockB a j k b ∨ i = .cwrBlockC a j k b)
      (h : x = cryptoWrite a (blockIndex j) (fun c => c.writeBlock j k b) s)
  | dataless (a : Access) (idx : WordIndex) (h : x = cryptoWrite a idx id s)
  | cycle (clk1 : Bool) (hi : i = .tcycle clk1) (h : x = tcycleWith Config.params clk1 s)
  | timerReset (hi : i = .treset) (h : x = execTreset s)
  | cryptoReset (hi : i = .creset) (h : x = execCreset s)

/-- Every instruction has one of these meanings (R101-R131, R182-R198, R140, R260, R261). -/
theorem exec_meaning (i : Instr) (s : State) : Meaning i s (exec i s) := by
  cases i with
  | trdCnt0 | trdRld0 | trdM00 | trdM10 | trdCnt1 | trdRld1 | trdM01 | trdM11
  | trdCnt2 | trdRld2 | trdM02 | trdM12 | trdCtrl | trdStatus | trdMask | trdRev
  | trdOorA | trdOorB => exact .timerRead _ _ rfl
  | twrStatus => exact .timerWrite .status _ _ rfl fun _ => ⟨_, rfl⟩
  | twrCnt0 | twrRld0 | twrM00 | twrM10 | twrCnt1 | twrRld1 | twrM01 | twrM11
  | twrCnt2 | twrRld2 | twrM02 | twrM12 | twrCtrl | twrMask | twrRev
  | twrOorA | twrOorB => exact .timerWrite _ _ _ rfl nofun
  | crdLast | crdBlockA | crdBlockB | crdBlockC | crdState | crdNone => exact .cryptoRead _ _ _ rfl
  | cwrCtrl => exact .control _ _ rfl rfl
  | cwrBlockA => exact .blockWrite _ _ _ _ (.inl rfl) rfl
  | cwrBlockB => exact .blockWrite _ _ _ _ (.inr (.inl rfl)) rfl
  | cwrBlockC => exact .blockWrite _ _ _ _ (.inr (.inr rfl)) rfl
  | cwrLast | cwrState | cwrNone => exact .dataless _ _ rfl
  | tcycle => exact .cycle _ rfl rfl
  | treset => exact .timerReset rfl rfl
  | creset => exact .cryptoReset rfl rfl

/-! ## Completion -/

theorem cryptoRead_completes (a : Access) (idx : WordIndex) (k : Lane) (s : State) :
    ∃ t, cryptoRead a idx k s = .next t := by
  unfold cryptoRead
  split
  · exact ⟨_, rfl⟩
  · split <;> exact ⟨_, rfl⟩

theorem cryptoWrite_completes (a : Access) (idx : WordIndex) (f : CryptoBlock → CryptoBlock) (s : State) :
    ∃ t, cryptoWrite a idx f s = .next t := by
  unfold cryptoWrite
  split
  · exact ⟨_, rfl⟩
  · split <;> exact ⟨_, rfl⟩

/-- No instruction faults or is refused (R230). -/
theorem exec_completes (i : Instr) (s : State) : ∃ t, exec i s = .next t := by
  cases exec_meaning i s with
  | timerRead _ _ h | timerWrite _ _ _ h _ | cycle _ _ h | timerReset _ h | cryptoReset _ h => exact ⟨_, h⟩
  | cryptoRead _ _ _ h => exact h ▸ cryptoRead_completes ..
  | control _ _ _ h | blockWrite _ _ _ _ _ h | dataless _ _ h => exact h ▸ cryptoWrite_completes ..

/-! ## What is left of each block -/

theorem cryptoRead_timer {a : Access} {idx : WordIndex} {k : Lane} {s t : State} (h : cryptoRead a idx k s = .next t) :
    t.timer = s.timer := by
  obtain ⟨_, rfl⟩ | ⟨_, _, _, rfl⟩ | ⟨_, _, _, rfl⟩ := cryptoRead_cases h <;> rfl

theorem cryptoWrite_timer {a : Access} {idx : WordIndex} {f : CryptoBlock → CryptoBlock} {s t : State}
    (h : cryptoWrite a idx f s = .next t) : t.timer = s.timer := by
  obtain ⟨_, rfl⟩ | ⟨_, _, _, rfl⟩ | ⟨_, _, _, rfl⟩ := cryptoWrite_cases h <;> rfl

theorem execTreset_next {s t : State} (h : execTreset s = .next t) :
    t = (s.setTimer (TimerBlock.reset s.timer.revision)).answer none [] := by
  simpa [execTreset, eq_comm] using h

theorem execCreset_next {s t : State} (h : execCreset s = .next t) :
    t = (s.setCrypto CryptoBlock.reset).answer none [] := by
  simpa [execCreset, eq_comm] using h

/-- All an instruction can do to the TimerBlock: nothing, one byte write, one block cycle, or the reset. -/
theorem exec_timer_cases {i : Instr} {s t : State} (h : exec i s = .next t) :
    t.timer = s.timer ∨
    (∃ r k b, (r = .status → ∃ p, i = .twrStatus p k b) ∧ t.timer = s.timer.writeSlot r k b) ∨
    (∃ clk1, i = .tcycle clk1 ∧ t.timer = (s.timer.cycle Config.params clk1).block) ∨
    (i = .treset ∧ t.timer = TimerBlock.reset s.timer.revision) := by
  cases h ▸ exec_meaning i s with
  | timerRead _ _ hx => exact .inl (by rw [timerRead_next hx.symm]; rfl)
  | timerWrite r k b hx hstatus => exact .inr (.inl ⟨r, k, b, hstatus, by rw [timerWrite_next hx.symm]; rfl⟩)
  | cryptoRead _ _ _ hx => exact .inl (cryptoRead_timer hx.symm)
  | control _ _ _ hx | blockWrite _ _ _ _ _ hx | dataless _ _ hx => exact .inl (cryptoWrite_timer hx.symm)
  | cycle clk1 hi hx => exact .inr (.inr (.inl ⟨clk1, hi, by rw [tcycleWith_next hx.symm]; rfl⟩))
  | timerReset hi hx => exact .inr (.inr (.inr ⟨hi, by rw [execTreset_next hx.symm]; rfl⟩))
  | cryptoReset _ hx => exact .inl (by rw [execCreset_next hx.symm]; rfl)

/-- A read keeps the hash state and the message block (R182, R183, R189). -/
theorem cryptoRead_data {a : Access} {idx : WordIndex} {k : Lane} {s t : State} (h : cryptoRead a idx k s = .next t) :
    t.crypto.hash = s.crypto.hash ∧ t.crypto.block = s.crypto.block := by
  obtain ⟨_, rfl⟩ | ⟨_, _, _, rfl⟩ | ⟨_, _, _, rfl⟩ := cryptoRead_cases h <;> exact ⟨rfl, rfl⟩

/-- A write keeps every part `g` of the CryptoBlock that its effect and the recording of the index keep (R188, R189). -/
theorem cryptoWrite_keeps {α : Type} (g : CryptoBlock → α) {a : Access} {idx : WordIndex}
    {f : CryptoBlock → CryptoBlock} {s t : State} (h : cryptoWrite a idx f s = .next t)
    (hf : ∀ c, g (f c) = g c) (hrecord : ∀ c : CryptoBlock, g (c.record idx) = g c) : g t.crypto = g s.crypto := by
  obtain ⟨_, rfl⟩ | ⟨_, _, _, rfl⟩ | ⟨_, _, _, rfl⟩ := cryptoWrite_cases h
  · exact hf _
  · exact hrecord _
  · exact (hf _).trans (hrecord _)

/-- All an instruction can do to the hash state and the message block: nothing, a control operation, a block write, or
the reset. -/
theorem exec_crypto_cases {i : Instr} {s t : State} (h : exec i s = .next t) :
    (t.crypto.hash = s.crypto.hash ∧ t.crypto.block = s.crypto.block) ∨
    ((∃ a v, i = .cwrCtrl a v) ∧ t.crypto.block = s.crypto.block) ∨
    ((∃ a j k b, i = .cwrBlockA a j k b ∨ i = .cwrBlockB a j k b ∨ i = .cwrBlockC a j k b) ∧
      t.crypto.hash = s.crypto.hash) ∨
    (i = .creset ∧ t.crypto = CryptoBlock.reset) := by
  cases h ▸ exec_meaning i s with
  | timerRead _ _ hx => exact .inl (by rw [timerRead_next hx.symm]; exact ⟨rfl, rfl⟩)
  | timerWrite _ _ _ hx _ => exact .inl (by rw [timerWrite_next hx.symm]; exact ⟨rfl, rfl⟩)
  | cryptoRead _ _ _ hx => exact .inl (cryptoRead_data hx.symm)
  | control a v hi hx =>
    have hblock := cryptoWrite_keeps CryptoBlock.block hx.symm (fun c => (controlOp_frame c v).1) (fun _ => rfl)
    exact .inr (.inl ⟨⟨a, v, hi⟩, hblock⟩)
  | blockWrite a j k b hi hx =>
    have hhash := cryptoWrite_keeps CryptoBlock.hash hx.symm (fun _ => rfl) (fun _ => rfl)
    exact .inr (.inr (.inl ⟨⟨a, j, k, b, hi⟩, hhash⟩))
  | dataless _ _ hx =>
    exact .inl ⟨cryptoWrite_keeps CryptoBlock.hash hx.symm (fun _ => rfl) (fun _ => rfl),
      cryptoWrite_keeps CryptoBlock.block hx.symm (fun _ => rfl) (fun _ => rfl)⟩
  | cycle _ _ hx => exact .inl (by rw [tcycleWith_next hx.symm]; exact ⟨rfl, rfl⟩)
  | timerReset _ hx => exact .inl (by rw [execTreset_next hx.symm]; exact ⟨rfl, rfl⟩)
  | cryptoReset hi hx => exact .inr (.inr (.inr ⟨hi, by rw [execCreset_next hx.symm]; rfl⟩))

end Sys2Proof.Machine
end

section
/-! What a byte write of the TIMER window leaves unchanged, and the bits a write of `status` clears. -/

namespace Sys2Proof.Machine

@[simp] theorem TimerBlock.writeSlot_revision (t : TimerBlock) (r : TimerReg) (k : Lane) (b : Byte) :
    (t.writeSlot r k b).revision = t.revision := by
  cases r <;> rfl

@[simp] theorem TimerBlock.writeSlot_delayStatus (t : TimerBlock) (r : TimerReg) (k : Lane) (b : Byte) :
    (t.writeSlot r k b).delayStatus = t.delayStatus := by
  cases r <;> rfl

@[simp] theorem TimerBlock.writeSlot_delayIntrpt (t : TimerBlock) (r : TimerReg) (k : Lane) (b : Byte) :
    (t.writeSlot r k b).delayIntrpt = t.delayIntrpt := by
  cases r <;> rfl

/-- A write of any other register keeps `status`. -/
theorem TimerBlock.writeSlot_status_of_ne (t : TimerBlock) {r : TimerReg} (k : Lane) (b : Byte) (h : r ≠ .status) :
    (t.writeSlot r k b).status = t.status := by
  cases r with
  | status => exact absurd rfl h
  | cnt | rld | m0 | m1 | ctrl | mask | revision | outside => rfl

/-- Write-1-to-clear, bit by bit (R122). -/
theorem TimerBlock.writeSlot_status_getLsbD (t : TimerBlock) (k : Lane) (b : Byte) {i : Nat} (hi : i < 9) :
    (t.writeSlot .status k b).status.getLsbD i =
      (t.status.getLsbD i && !(decide (k.toNat = i / 8) && b.getLsbD (i % 8))) := by
  have hbit : ((b.setWidth 32 <<< (8 * k.toNat)).extractLsb' 0 9).getLsbD i =
      (decide (k.toNat = i / 8) && b.getLsbD (i % 8)) := by
    have hi32 : i < 32 := by omega
    by_cases hlane : k.toNat = i / 8
    · have hle : ¬ i < 8 * (i / 8) := by omega
      have hmod : i - 8 * (i / 8) = i % 8 := by omega
      simp [hi, hi32, hlane, hle, hmod]
    · by_cases hlt : i < 8 * k.toNat
      · simp [hi, hlt, hlane]
      · have hout : b.getLsbD (i - 8 * k.toNat) = false := BitVec.getLsbD_of_ge _ _ (by omega)
        simp [hi, hlane, hout]
  simp only [TimerBlock.writeSlot, TimerBlock.irqRecompute_status, BitVec.getLsbD_and, BitVec.getLsbD_not, hbit, hi,
    decide_true, Bool.true_and]

end Sys2Proof.Machine
end

section
/-! The CRYPTO transaction as the host issues it: what it decodes to, and what that runs, whatever the offset. -/

namespace Sys2Proof.Machine

/-- A CRYPTO access's bits are its fields (R80). -/
theorem decode_caTx (p w : Bool) (off : CryptoOffset) (b : Byte) (locks : Locks) :
    decode (caTx p w off b locks) =
      .ok (if w then cryptoWriteAt (if p then .inspect else .normal locks) off b
        else cryptoReadAt (if p then .inspect else .normal locks) off) := by
  have hoff : offsetOf (n := Config.cryptoOffBits) (BitVec.ofBool p ++ BitVec.ofBool w ++ off) = off :=
    BitVec.extractLsb'_append_eq_right
  have hw : writeOf (n := Config.cryptoOffBits) (BitVec.ofBool p ++ BitVec.ofBool w ++ off) = w :=
    BitVec.getLsbD_append.trans (by cases p <;> cases w <;> rfl)
  have hp : inspectOf (n := Config.cryptoOffBits) (BitVec.ofBool p ++ BitVec.ofBool w ++ off) = p :=
    BitVec.getLsbD_append.trans (by cases p <;> cases w <;> rfl)
  simp only [decode, caTx, decodeCa, accessOf, hoff, hw, hp]

/-- The word of the message block an index selects is at that index (R86). -/
theorem blockIndex_blockWordOf : ∀ idx : WordIndex, indexInBlock idx = true → blockIndex (blockWordOf idx) = idx := by
  decide

/-- The word of the hash state an index selects is at that index (R86). -/
theorem stateIndex_stateWordOf : ∀ idx : WordIndex, indexInState idx = true → stateIndex (stateWordOf idx) = idx := by
  decide

theorem exec_blockReadAt (a : Access) (j : BitVec 4) (k : Lane) (s : State) :
    exec (blockReadAt a j k) s = cryptoRead a (blockIndex j) k s := by
  unfold blockReadAt
  split
  · rfl
  · split <;> rfl

theorem exec_blockWriteAt (a : Access) (j : BitVec 4) (k : Lane) (b : Byte) (s : State) :
    exec (blockWriteAt a j k b) s = cryptoWrite a (blockIndex j) (fun c => c.writeBlock j k b) s := by
  unfold blockWriteAt
  split
  · rfl
  · split <;> rfl

/-- A CRYPTO read at any offset is the gated read of its word index (R182-R187). -/
theorem exec_cryptoReadAt (a : Access) (off : CryptoOffset) (s : State) :
    exec (cryptoReadAt a off) s = cryptoRead a (indexOf off) (laneOf off) s := by
  simp only [cryptoReadAt]
  split
  next hlast => rw [hlast]; rfl
  split
  next hblock => rw [exec_blockReadAt, blockIndex_blockWordOf _ hblock]
  split
  next hstate => exact congrArg (cryptoRead a · (laneOf off) s) (stateIndex_stateWordOf _ hstate)
  rfl

/-- A CRYPTO write at any offset is the gated write of its word index, and no data effect touches `last` (R188-R198). -/
theorem exec_cryptoWriteAt (a : Access) (off : CryptoOffset) (b : Byte) (s : State) :
    ∃ f : CryptoBlock → CryptoBlock, (∀ c, (f c).last = c.last) ∧
      exec (cryptoWriteAt a off b) s = cryptoWrite a (indexOf off) f s := by
  simp only [cryptoWriteAt]
  split
  next hctrl => exact ⟨fun c => c.controlOp b, fun c => (controlOp_frame c b).2, by rw [hctrl]; rfl⟩
  split
  next hlast => exact ⟨id, fun _ => rfl, by rw [hlast]; rfl⟩
  split
  next hblock =>
    refine ⟨fun c => c.writeBlock (blockWordOf (indexOf off)) (laneOf off) b, fun _ => rfl, ?_⟩
    rw [exec_blockWriteAt, blockIndex_blockWordOf _ hblock]
  split
  next hstate => exact ⟨id, fun _ => rfl, congrArg (cryptoWrite a · id s) (stateIndex_stateWordOf _ hstate)⟩
  exact ⟨id, fun _ => rfl, rfl⟩

/-- A step with a transaction pending that spells an instruction is that instruction's meaning (R35, R71). -/
theorem step_of_decode_ok {s : State} {tx : Transaction} {rest : List Transaction} {i : Instr}
    (hpending : s.pending = tx :: rest) (hdecode : decode tx = .ok i) : step s = exec i (s.setPending rest) := by
  simp only [step, State.fetch_cons hpending, hdecode]

/-- A peek keeps the whole CryptoBlock (R189). -/
theorem cryptoRead_inspect (idx : WordIndex) (k : Lane) (s : State) :
    cryptoRead .inspect idx k s = .next (s.answer (some (byteOf (s.crypto.wordAt idx) k)) []) := rfl

/-- A poke has its data effect alone (R189). -/
theorem cryptoWrite_inspect (idx : WordIndex) (f : CryptoBlock → CryptoBlock) (s : State) :
    cryptoWrite .inspect idx f s = .next ((s.setCrypto (f s.crypto)).answer none []) := rfl

end Sys2Proof.Machine
end

section
/-! A delay pipeline through the ageing and the enqueueing of a cycle, for either kind of entry (R150, R151, R154,
R155): `PipeOk` is what both halves of the invariant say. -/

namespace Sys2Proof.Machine

variable {ε : Type}

/-- A pipeline whose entries have the time left `rem` and the shape `P`: within its capacity, each entry due in 1 to
`delay` cycles, in order. -/
def PipeOk (cap delay : Nat) (rem : ε → Int) (P : ε → Prop) (l : List ε) : Prop :=
  l.length ≤ cap ∧ (∀ e ∈ l, P e ∧ 1 ≤ rem e ∧ rem e ≤ delay) ∧ remsInOrder (l.map rem)

theorem TimerBlock.statusPipeOk_iff (c : Config) (t : TimerBlock) : t.statusPipeOk c ↔
    PipeOk c.pipeCap c.statusDelay StatusEntry.rem StatusEntry.fromOneTimer t.delayStatus := Iff.rfl

theorem TimerBlock.intrptPipeOk_iff (c : Config) (t : TimerBlock) : t.intrptPipeOk c ↔
    PipeOk c.pipeCap c.intrptDelay IntrptEntry.rem IntrptEntry.oneLine t.delayIntrpt := Iff.rfl

theorem pipeOk_nil (cap delay : Nat) (rem : ε → Int) (P : ε → Prop) : PipeOk cap delay rem P [] :=
  ⟨Nat.zero_le _, nofun, List.Pairwise.nil⟩

/-- `PipeAge()` keeps a pipeline: the entries not due in this cycle are one cycle nearer, still in order (R150, R151). -/
theorem PipeOk.aged {cap delay : Nat} {rem : ε → Int} {P : ε → Prop} {l : List ε} (hl : PipeOk cap delay rem P l)
    {age : ε → ε} (hrem : ∀ e, rem (age e) = rem e - 1) (hP : ∀ e, P e → P (age e)) :
    PipeOk cap delay rem P ((l.filter fun e => rem e ≠ 1).map age) := by
  obtain ⟨hlength, hentries, horder⟩ := hl
  refine ⟨?_, ?_, ?_⟩
  · rw [List.length_map]
    exact (List.length_filter_le _ _).trans hlength
  · intro e' he'
    obtain ⟨e, he, rfl⟩ := List.mem_map.mp he'
    obtain ⟨hmem, hnotDue⟩ := List.mem_filter.mp he
    obtain ⟨hshape, hpos, hle⟩ := hentries e hmem
    have hne : rem e ≠ 1 := of_decide_eq_true hnotDue
    refine ⟨hP e hshape, ?_, ?_⟩ <;> rw [hrem] <;> omega
  · have hkept : (l.filter fun e => rem e ≠ 1).Pairwise fun x y => rem x ≤ rem y :=
      (List.pairwise_map.mp horder).filter _
    rw [remsInOrder, List.map_map, List.pairwise_map]
    exact hkept.imp fun hxy => by simpa [hrem] using hxy

/-- Enqueueing keeps a pipeline: new entries are due last, and only as many as there is room for go in (R151, R154,
R155, R156). -/
theorem PipeOk.pushed {cap delay : Nat} {rem : ε → Int} {P : ε → Prop} {l : List ε} (hl : PipeOk cap delay rem P l)
    (hdelay : 1 ≤ delay) {f : TimerIx × BitVec 3 → ε} {new : List (TimerIx × BitVec 3)}
    (hrem : ∀ x, rem (f x) = delay) (hP : ∀ x ∈ new, P (f x)) : PipeOk cap delay rem P (pushed cap l f new) := by
  obtain ⟨hlength, hentries, horder⟩ := hl
  have hnew : ∀ e ∈ (new.take (cap - l.length)).map f, P e ∧ rem e = delay := by
    intro e he
    obtain ⟨x, hx, rfl⟩ := List.mem_map.mp he
    exact ⟨hP x (List.mem_of_mem_take hx), hrem x⟩
  refine ⟨?_, ?_, ?_⟩
  · simp only [Machine.pushed, List.length_append, List.length_map, List.length_take]
    omega
  · intro e he
    obtain hold | hin := List.mem_append.mp he
    · exact hentries e hold
    · obtain ⟨hshape, heq⟩ := hnew e hin
      exact ⟨hshape, by omega, by omega⟩
  · rw [remsInOrder, List.pairwise_map, Machine.pushed, List.pairwise_append]
    refine ⟨List.pairwise_map.mp horder, ?_, ?_⟩
    · refine List.pairwise_of_forall_mem_list fun x hx y hy => ?_
      rw [(hnew x hx).2, (hnew y hy).2]
    · intro x hx y hy
      rw [(hnew y hy).2]
      exact (hentries x hx).2.2

end Sys2Proof.Machine
end

section
/-! The TimerBlock's invariant through each of the things an instruction can do to the block. -/

namespace Sys2Proof.Machine

/-! ## The reset -/

/-- The reset block meets the invariant: no line is asserted and both pipelines are empty (R50). -/
theorem TimerBlock.inv_reset (c : Config) : (TimerBlock.reset c.revision).Inv c := by
  refine ⟨rfl, ?_, pipeOk_nil .., pipeOk_nil ..⟩
  intro n hirq
  simp [TimerBlock.reset] at hirq

/-! ## A byte write -/

/-- After a recompute every line is exactly its expression (R121). -/
theorem TimerBlock.irqJustified_irqRecompute (t : TimerBlock) : t.irqRecompute.irqJustified := by
  intro n hirq
  rwa [TimerBlock.irqRecompute_irq_get] at hirq

/-- A write keeps the lines justified: `status` and `mask` recompute them, no other register enters the expression
(R121, R122, R126). -/
theorem TimerBlock.irqJustified_writeSlot {t : TimerBlock} (h : t.irqJustified) (r : TimerReg) (k : Lane) (b : Byte) :
    (t.writeSlot r k b).irqJustified := by
  cases r with
  | status | mask => exact TimerBlock.irqJustified_irqRecompute _
  | cnt | rld | m0 | m1 | ctrl | revision | outside => exact h

theorem TimerBlock.Inv.writeSlot {c : Config} {t : TimerBlock} (h : t.Inv c) (r : TimerReg) (k : Lane) (b : Byte) :
    (t.writeSlot r k b).Inv c := by
  obtain ⟨hrevision, hirq, hstatus, hintrpt⟩ := h
  rw [TimerBlock.statusPipeOk_iff] at hstatus
  rw [TimerBlock.intrptPipeOk_iff] at hintrpt
  refine ⟨?_, TimerBlock.irqJustified_writeSlot hirq r k b, ?_, ?_⟩
  · rwa [TimerBlock.writeSlot_revision]
  · rwa [TimerBlock.statusPipeOk_iff, TimerBlock.writeSlot_delayStatus]
  · rwa [TimerBlock.intrptPipeOk_iff, TimerBlock.writeSlot_delayIntrpt]

/-! ## A block cycle -/

/-- Ageing only sets status bits, so an unmasked pending bit stays one (R152). -/
theorem unmasked_statusAfterAge {t : TimerBlock} {n : TimerIx} (h : t.unmasked n = true) :
    unmaskedIn t.statusAfterAge t.mask n = true := by
  rw [unmasked_eq, unmaskedIn_iff] at h
  obtain ⟨k, hk, hset, hmask⟩ := h
  exact (unmaskedIn_iff _ _ _).mpr ⟨k, hk, (statusAfterAge_getLsbD t _).mpr (.inl hset), hmask⟩

/-- A line asserted after the ageing was assigned its expression or was asserted, and justified, before (R153). -/
theorem irqAfterAge_justified {t : TimerBlock} (h : t.irqJustified) {n : TimerIx} (hirq : t.irqAfterAge[n] = true) :
    unmaskedIn t.statusAfterAge t.mask n = true := by
  simp only [TimerBlock.irqAfterAge, Fin.getElem_fin, Vector.getElem_ofFn, Fin.eta] at hirq
  split at hirq
  · exact hirq
  · exact unmasked_statusAfterAge (h n hirq)

/-- Only a timer with an event is among those a cycle raises (R146). -/
theorem eventVector_ne_zero_of_mem_raised {t : TimerBlock} {clk1 : Bool} {x : TimerIx × BitVec 3}
    (hx : x ∈ t.raised clk1) : x.2 ≠ 0#3 := by
  obtain ⟨n, _, hn⟩ := List.mem_filterMap.mp hx
  split at hn
  next hraised =>
    obtain rfl := Option.some.inj hn
    exact hraised.2
  next => cases hn

theorem statusPipe_cycle {c : Config} {t : TimerBlock} (h : t.statusPipeOk c) (clk1 : Bool) :
    PipeOk c.pipeCap c.statusDelay StatusEntry.rem StatusEntry.fromOneTimer
      (pushed c.pipeCap t.keptStatus (statusEntryOf c) (t.raised clk1)) := by
  have hkept : PipeOk c.pipeCap c.statusDelay StatusEntry.rem StatusEntry.fromOneTimer t.keptStatus :=
    PipeOk.aged ((t.statusPipeOk_iff c).mp h) StatusEntry.age_rem fun _ => id
  exact hkept.pushed (Nat.le_add_left 1 _) (fun _ => rfl)
    fun x hx => ⟨x.1, x.2, eventVector_ne_zero_of_mem_raised hx, rfl⟩

theorem intrptPipe_cycle {c : Config} {t : TimerBlock} (h : t.intrptPipeOk c) (clk1 : Bool) :
    PipeOk c.pipeCap c.intrptDelay IntrptEntry.rem IntrptEntry.oneLine
      (pushed c.pipeCap t.keptIntrpt (intrptEntryOf c) (t.raised clk1)) := by
  have hkept : PipeOk c.pipeCap c.intrptDelay IntrptEntry.rem IntrptEntry.oneLine t.keptIntrpt :=
    PipeOk.aged ((t.intrptPipeOk_iff c).mp h) IntrptEntry.age_rem fun _ => id
  have hdelay : 1 ≤ c.intrptDelay := by unfold Config.intrptDelay Config.statusDelay; omega
  exact hkept.pushed hdelay (fun _ => rfl) fun x _ => ⟨x.1, rfl⟩

theorem TimerBlock.Inv.cycle {c : Config} {t : TimerBlock} (h : t.Inv c) (clk1 : Bool) :
    (t.cycle c clk1).block.Inv c := by
  obtain ⟨hrevision, hirq, hstatus, hintrpt⟩ := h
  rw [cycle_eq]
  exact ⟨hrevision, fun _ => irqAfterAge_justified hirq, statusPipe_cycle hstatus clk1, intrptPipe_cycle hintrpt clk1⟩

/-- Every instruction keeps the invariant. -/
theorem exec_keeps_inv {i : Instr} {s t : State} (hinv : s.Inv) (h : exec i s = .next t) : t.Inv := by
  unfold State.Inv at hinv ⊢
  obtain heq | ⟨r, k, b, _, heq⟩ | ⟨clk1, _, heq⟩ | ⟨_, heq⟩ := exec_timer_cases h <;> rw [heq]
  · exact hinv
  · exact hinv.writeSlot r k b
  · exact hinv.cycle clk1
  · rw [hinv.1]
    exact TimerBlock.inv_reset _

end Sys2Proof.Machine
end

section
/-! The statements of 10_state.md. -/

namespace Sys2Proof.Machine

/-- Settles O26: a step is idle or runs one instruction, and each of the four things an instruction can do to the
TimerBlock keeps its invariant. -/
theorem invariantKeptByEveryStep : Obligations.InvariantKeptByEveryStep := by
  intro s t hinv hstep
  obtain ⟨_, rfl⟩ | ⟨_, rest, _, _, _, hexec⟩ := step_next_cases hstep
  · exact hinv
  · have htaken : (s.setPending rest).Inv := hinv
    exact exec_keeps_inv htaken hexec

/-- Settles O24, by the four things an instruction can do to the TimerBlock: a byte write of `status` clears the bits
written 1, a cycle's ageing sets the bits of the due entries, the reset clears all. -/
theorem statusBitsChangeOnlyAsStated : Obligations.StatusBitsChangeOnlyAsStated := by
  intro i s
  obtain ⟨t, ht⟩ := exec_completes i s
  refine ⟨t, ht, fun k hk => ?_⟩
  obtain heq | ⟨r, lane, b, hstatus, heq⟩ | ⟨clk1, hi, heq⟩ | ⟨hi, heq⟩ := exec_timer_cases ht <;> rw [heq]
  · simp_all
  · by_cases hr : r = .status
    · obtain ⟨p, hi⟩ := hstatus hr
      rw [hr, TimerBlock.writeSlot_status_getLsbD _ _ _ hk]
      refine ⟨fun hclear hset => by simp [hclear] at hset, fun hset hclear => .inr ⟨p, lane, b, hi, ?_⟩⟩
      simpa [hset] using hclear
    · rw [TimerBlock.writeSlot_status_of_ne _ _ _ hr]
      simp_all
  · have hbit := statusAfterAge_getLsbD s.timer k
    rw [cycle_eq]
    refine ⟨fun hclear hset => ⟨⟨clk1, hi⟩, ?_⟩, fun hset hclear => ?_⟩
    · exact (hbit.mp hset).resolve_left (by simp [hclear])
    · exact absurd (hbit.mpr (.inl hset)) (by simp [hclear])
  · exact ⟨fun _ hset => by simp [TimerBlock.reset] at hset, fun _ _ => .inl hi⟩

/-- Settles O43, by the four things an instruction can do to the two registers. -/
theorem hashAndBlockHaveTheirOwnWriters : Obligations.HashAndBlockHaveTheirOwnWriters := by
  intro i s
  obtain ⟨t, ht⟩ := exec_completes i s
  refine ⟨t, ht, ?_⟩
  obtain ⟨hhash, hblock⟩ | ⟨hi, hblock⟩ | ⟨hi, hhash⟩ | ⟨hi, _⟩ := exec_crypto_cases ht
  · exact ⟨fun hne => absurd hhash hne, fun hne => absurd hblock hne⟩
  · exact ⟨fun _ => .inr hi, fun hne => absurd hblock hne⟩
  · exact ⟨fun hne => absurd hhash hne, fun _ => .inr hi⟩
  · exact ⟨fun _ => .inl hi, fun _ => .inl hi⟩

/-- Settles O44: a peek changes neither block, and a poke has its data effect alone, which never touches `last`. -/
theorem peekAndPokeKeepLast : Obligations.PeekAndPokeKeepLast := by
  intro s w off b locks rest hpending
  rw [step_of_decode_ok hpending (decode_caTx true w off b locks)]
  cases w with
  | false => exact ⟨_, (exec_cryptoReadAt _ _ _).trans (cryptoRead_inspect _ _ _), rfl, rfl⟩
  | true =>
    obtain ⟨f, hlast, hexec⟩ := exec_cryptoWriteAt .inspect off b (s.setPending rest)
    exact ⟨_, hexec.trans (cryptoWrite_inspect _ _ _), hlast _, rfl⟩

/-- Settles O6: the fetch takes the oldest transaction, and the step's match on its decoding is the instruction's. -/
theorem stepRunsTheDecodedTransaction : Obligations.StepRunsTheDecodedTransaction := by
  intro s tx rest i hpending hdecode
  exact step_of_decode_ok hpending hdecode

/-- Settles O17: no write, cycle or reset of the TimerBlock changes `revision`, and TRD.REV reads its slot. -/
theorem revisionIsReadOnlyConstant : Obligations.RevisionIsReadOnlyConstant := by
  refine ⟨rfl, fun i s => ?_, fun s p k => ⟨_, rfl, rfl⟩⟩
  obtain ⟨t, ht⟩ := exec_completes i s
  refine ⟨t, ht, ?_⟩
  obtain heq | ⟨r, k, b, _, heq⟩ | ⟨clk1, _, heq⟩ | ⟨_, heq⟩ := exec_timer_cases ht <;> rw [heq]
  · exact TimerBlock.writeSlot_revision ..
  · rw [cycle_eq]
  · rfl

/-- Settles O27: the reset state's TimerBlock is the reset block, which meets the invariant. -/
theorem resetMeetsInvariant : Obligations.ResetMeetsInvariant :=
  TimerBlock.inv_reset Config.params

end Sys2Proof.Machine
end

section
/-! Which block an instruction acts on: its outcome is a function of that block alone, and it keeps the other block and
the host's pending transactions (R61, R262). -/

namespace Sys2Proof.Machine

/-- The operation reads the TimerBlock alone and changes, besides its answer, the TimerBlock alone. -/
def ActsOnTimer (op : State → Result) : Prop :=
  ∃ (next : TimerBlock → TimerBlock) (reply : TimerBlock → Option Byte) (diags : TimerBlock → List Diagnostic),
    ∀ s, op s = .next ((s.setTimer (next s.timer)).answer (reply s.timer) (diags s.timer))

/-- The operation reads the CryptoBlock alone and changes, besides its answer, the CryptoBlock alone. -/
def ActsOnCrypto (op : State → Result) : Prop :=
  ∃ (next : CryptoBlock → CryptoBlock) (reply : CryptoBlock → Option Byte) (diags : CryptoBlock → List Diagnostic),
    ∀ s, op s = .next ((s.setCrypto (next s.crypto)).answer (reply s.crypto) (diags s.crypto))

theorem timerRead_actsOnTimer (r : TimerReg) (k : Lane) : ActsOnTimer (timerRead r k) :=
  ⟨id, fun t => some (byteOf (t.slot r) k), fun _ => [], fun _ => rfl⟩

theorem timerWrite_actsOnTimer (r : TimerReg) (k : Lane) (b : Byte) : ActsOnTimer (timerWrite r k b) :=
  ⟨fun t => t.writeSlot r k b, fun _ => none, fun _ => [], fun _ => rfl⟩

theorem tcycleWith_actsOnTimer (c : Config) (clk1 : Bool) : ActsOnTimer (tcycleWith c clk1) :=
  ⟨fun t => (t.cycle c clk1).block, fun _ => none, fun t => (t.cycle c clk1).diags, fun _ => rfl⟩

theorem execTreset_actsOnTimer : ActsOnTimer execTreset :=
  ⟨fun t => TimerBlock.reset t.revision, fun _ => none, fun _ => [], fun _ => rfl⟩

theorem cryptoRead_actsOnCrypto (a : Access) (idx : WordIndex) (k : Lane) : ActsOnCrypto (cryptoRead a idx k) := by
  cases a with
  | inspect => exact ⟨id, fun c => some (byteOf (c.wordAt idx) k), fun _ => [], fun _ => rfl⟩
  | normal locks =>
    by_cases hopen : locks.opAllowed
    · exact ⟨fun c => c.record idx, fun c => some (byteOf (c.wordAt idx) k), fun _ => [], fun _ => if_pos hopen⟩
    · exact ⟨id, fun c => some (byteOf (c.wordAt c.last) k), fun _ => [], fun _ => if_neg hopen⟩

theorem cryptoWrite_actsOnCrypto (a : Access) (idx : WordIndex) (f : CryptoBlock → CryptoBlock) :
    ActsOnCrypto (cryptoWrite a idx f) := by
  cases a with
  | inspect => exact ⟨f, fun _ => none, fun _ => [], fun _ => rfl⟩
  | normal locks =>
    by_cases hprot : locks.writeProtected
    · exact ⟨fun c => c.record idx, fun _ => none, fun _ => [], fun _ => if_pos hprot⟩
    · exact ⟨fun c => f (c.record idx), fun _ => none, fun _ => [], fun _ => if_neg hprot⟩

theorem execCreset_actsOnCrypto : ActsOnCrypto execCreset :=
  ⟨fun _ => CryptoBlock.reset, fun _ => none, fun _ => [], fun _ => rfl⟩

/-- Every instruction acts on the one block its format and event name (R80, R89). -/
theorem exec_actsOn (i : Instr) :
    (onTimer i = true ∧ ActsOnTimer (exec i)) ∨ (onTimer i = false ∧ ActsOnCrypto (exec i)) := by
  cases i with
  | trdCnt0 | trdRld0 | trdM00 | trdM10 | trdCnt1 | trdRld1 | trdM01 | trdM11
  | trdCnt2 | trdRld2 | trdM02 | trdM12 | trdCtrl | trdStatus | trdMask | trdRev
  | trdOorA | trdOorB => exact .inl ⟨rfl, timerRead_actsOnTimer _ _⟩
  | twrCnt0 | twrRld0 | twrM00 | twrM10 | twrCnt1 | twrRld1 | twrM01 | twrM11
  | twrCnt2 | twrRld2 | twrM02 | twrM12 | twrCtrl | twrStatus | twrMask | twrRev
  | twrOorA | twrOorB => exact .inl ⟨rfl, timerWrite_actsOnTimer _ _ _⟩
  | tcycle => exact .inl ⟨rfl, tcycleWith_actsOnTimer _ _⟩
  | treset => exact .inl ⟨rfl, execTreset_actsOnTimer⟩
  | crdLast | crdBlockA | crdBlockB | crdBlockC | crdState | crdNone =>
    exact .inr ⟨rfl, cryptoRead_actsOnCrypto _ _ _⟩
  | cwrCtrl a v => exact .inr ⟨rfl, cryptoWrite_actsOnCrypto _ _ fun c => c.controlOp v⟩
  | cwrBlockA a j k b | cwrBlockB a j k b | cwrBlockC a j k b =>
    exact .inr ⟨rfl, cryptoWrite_actsOnCrypto _ _ fun c => c.writeBlock j k b⟩
  | cwrLast | cwrState | cwrNone => exact .inr ⟨rfl, cryptoWrite_actsOnCrypto _ _ id⟩
  | creset => exact .inr ⟨rfl, execCreset_actsOnCrypto⟩

/-- No instruction touches the transactions the host has still pending (R71; log entry 1). -/
theorem exec_pending {i : Instr} {s t : State} (h : exec i s = .next t) : t.pending = s.pending := by
  obtain ⟨_, _, _, _, hexec⟩ | ⟨_, _, _, _, hexec⟩ := exec_actsOn i
  all_goals
    rw [hexec, Host.Outcome.next.injEq] at h
    rw [← h]
    rfl

end Sys2Proof.Machine
end

section
/-! Repeating a transaction (R69): a byte written twice, a word read twice. -/

namespace Sys2Proof.Machine

/-! ## Writing a slot twice -/

theorem TimerBlock.setRegs_setRegs (t : TimerBlock) (n : TimerIx) (r u : TimerRegs) :
    (t.setRegs n r).setRegs n u = t.setRegs n u := by
  simp [TimerBlock.setRegs]

/-- In a register of fewer than 32 bits too, writing the same byte twice is writing it once (R23, R27). -/
theorem setByte_narrow_setByte {w : Nat} (hw : w ≤ 32) (v : BitVec w) (k : Lane) (b : Byte) :
    (setByte (((setByte (v.setWidth 32) k b).extractLsb' 0 w).setWidth 32) k b).extractLsb' 0 w =
      (setByte (v.setWidth 32) k b).extractLsb' 0 w := by
  apply BitVec.eq_of_getLsbD_eq
  intro i hi
  have hi32 : i < 32 := by omega
  simp only [BitVec.getLsbD_extractLsb', BitVec.getLsbD_setWidth, Nat.zero_add, setByte_getLsbD, hi, hi32, decide_true,
    Bool.true_and]
  split <;> rfl

/-- Writing a byte of a slot twice is writing it once (R69). -/
theorem TimerBlock.writeSlot_writeSlot (t : TimerBlock) (r : TimerReg) (k : Lane) (b : Byte) :
    (t.writeSlot r k b).writeSlot r k b = t.writeSlot r k b := by
  cases r with
  | cnt n | rld n | m0 n | m1 n =>
    simp only [TimerBlock.writeSlot, TimerBlock.setCnt, TimerBlock.setRegs_setRegs, TimerBlock.setRegs_timers_self,
      setByte_setByte]
  | ctrl =>
    have hctrl := setByte_narrow_setByte (by decide) t.ctrl k b
    simp only [TimerBlock.writeSlot, hctrl]
  | status =>
    simp only [TimerBlock.writeSlot, TimerBlock.irqRecompute_status, BitVec.and_assoc, BitVec.and_self]
    rfl
  | mask =>
    have hmask := setByte_narrow_setByte (by decide) t.mask k b
    simp only [TimerBlock.writeSlot, TimerBlock.irqRecompute_mask, hmask]
    rfl
  | revision | outside => rfl

theorem timerWrite_repeat {r : TimerReg} {k : Lane} {b : Byte} {s t : State} (h : timerWrite r k b s = .next t) :
    timerWrite r k b t = .next t := by
  rw [timerWrite_next h, timerWrite, State.answer_timer, State.setTimer_timer, TimerBlock.writeSlot_writeSlot]
  rfl

/-! ## Reading a word twice -/

/-- The recorded index is no part of what a word reads (R181). -/
@[simp] theorem CryptoBlock.record_wordAt (c : CryptoBlock) (idx jdx : WordIndex) :
    (c.record idx).wordAt jdx = c.wordAt jdx := rfl

theorem cryptoRead_repeat {a : Access} {idx : WordIndex} {k : Lane} {s t : State} (h : cryptoRead a idx k s = .next t) :
    cryptoRead a idx k t = .next t := by
  obtain ⟨rfl, rfl⟩ | ⟨_, rfl, hopen, rfl⟩ | ⟨_, rfl, hlocked, rfl⟩ := cryptoRead_cases h
  · rfl
  · exact if_pos hopen
  · exact if_neg (by simp [hlocked])

/-! ## The TIMER transaction as the host issues it -/

/-- A TIMER access's bits are its fields (R80). -/
theorem decode_taTx (p w : Bool) (off : TimerOffset) (b : Byte) (locks : Locks) :
    decode (taTx p w off b locks) =
      .ok (if w then timerWriteAt (if p then .inspect else .normal) off b
        else timerReadAt (if p then .inspect else .normal) off) := by
  have hoff : offsetOf (n := Config.tmrOffBits) (BitVec.ofBool p ++ BitVec.ofBool w ++ off) = off :=
    BitVec.extractLsb'_append_eq_right
  have hw : writeOf (n := Config.tmrOffBits) (BitVec.ofBool p ++ BitVec.ofBool w ++ off) = w :=
    BitVec.getLsbD_append.trans (by cases p <;> cases w <;> rfl)
  have hp : inspectOf (n := Config.tmrOffBits) (BitVec.ofBool p ++ BitVec.ofBool w ++ off) = p :=
    BitVec.getLsbD_append.trans (by cases p <;> cases w <;> rfl)
  simp only [decode, taTx, decodeTa, variantOf, hoff, hw, hp]

/-- A TIMER write at any offset is the byte write of one register slot, the same from every state (R101, R131). -/
theorem exec_timerWriteAt (p : Variant) (off : TimerOffset) (b : Byte) :
    ∃ r, ∀ s, exec (timerWriteAt p off b) s = timerWrite r (laneOf off) b s := by
  unfold timerWriteAt
  split
  · split <;> exact ⟨_, fun _ => rfl⟩
  · split <;> exact ⟨.outside, fun _ => rfl⟩

/-! ## The step, repeated -/

/-- Where an instruction run on its own outcome changes nothing more, so does its transaction issued again. -/
theorem step_repeat {s : State} {tx : Transaction} {rest : List Transaction} {i : Instr}
    (hpending : s.pending = tx :: rest) (hdecode : decode tx = .ok i)
    (hrepeat : ∀ {s t}, exec i s = .next t → exec i t = .next t) :
    ∃ t, step s = .next t ∧ step { t with pending := tx :: rest } = .next t := by
  obtain ⟨t, ht⟩ := exec_completes i (s.setPending rest)
  have hrest : t.pending = rest := exec_pending ht
  have htaken : ({ t with pending := tx :: rest } : State).setPending rest = t := by rw [← hrest]; rfl
  refine ⟨t, (step_of_decode_ok hpending hdecode).trans ht, ?_⟩
  rw [step_of_decode_ok rfl hdecode, htaken]
  exact hrepeat ht

end Sys2Proof.Machine
end

section
/-! The statements of 20_memory.md. -/

namespace Sys2Proof.Machine

/-- Settles O54: the write is the byte write of one slot, and a second one finds its byte already there. -/
theorem timerWritesAreIdempotent : Obligations.TimerWritesAreIdempotent := by
  intro s p off b locks rest hpending
  obtain ⟨r, hexec⟩ := exec_timerWriteAt (if p then .inspect else .normal) off b
  refine step_repeat hpending (decode_taTx p true off b locks) fun {u t} ht => ?_
  exact (hexec t).trans (timerWrite_repeat ((hexec u).symm.trans ht))

/-- Settles O55: a second read, replayed or not, finds the same word and records the same index. -/
theorem cryptoReadsAreRepeatable : Obligations.CryptoReadsAreRepeatable := by
  intro s p off b locks rest hpending
  refine step_repeat hpending (decode_caTx p false off b locks) fun {u t} ht => ?_
  exact (exec_cryptoReadAt _ off t).trans (cryptoRead_repeat ((exec_cryptoReadAt _ off u).symm.trans ht))

/-- Settles O56: an instruction acts on one block, by functions of that block alone. -/
theorem blocksDoNotInterfere : Obligations.BlocksDoNotInterfere := by
  intro i s s'
  obtain ⟨hon, _, _, _, hexec⟩ | ⟨hon, _, _, _, hexec⟩ := exec_actsOn i
  · refine ⟨_, _, hexec s, hexec s', fun _ => ⟨rfl, fun heq => ?_⟩, fun hoff => absurd hoff (by simp [hon])⟩
    simp [heq]
  · refine ⟨_, _, hexec s, hexec s', fun htimer => absurd htimer (by simp [hon]), fun _ => ⟨rfl, fun heq => ?_⟩⟩
    simp [heq]

end Sys2Proof.Machine
end

section
/-! The fields of an access word: every TA and CA word is an access as the host issues it, and the encoder's
transactions are such accesses. -/

namespace Sys2Proof.Machine

/-- An access word is its `P`, `W` and `off` fields (R80). -/
theorem accessWord_fields (w : BitVec (8 + 2)) : accessWord (inspectOf w) (writeOf w) (offsetOf w) = w := by
  apply BitVec.eq_of_getLsbD_eq
  intro i hi
  obtain hlow | rfl | rfl : i < 8 ∨ i = 8 ∨ i = 9 := by omega
  · have hoff : (offsetOf w).getLsbD i = w.getLsbD i := by
      simp only [offsetOf, BitVec.getLsbD_extractLsb', hlow, decide_true, Bool.true_and, Nat.zero_add]
    rw [← hoff]
    exact BitVec.getLsbD_append.trans (if_pos hlow)
  · change _ = writeOf w
    exact BitVec.getLsbD_append.trans (by cases inspectOf w <;> cases writeOf w <;> rfl)
  · change _ = inspectOf w
    exact BitVec.getLsbD_append.trans (by cases inspectOf w <;> cases writeOf w <;> rfl)

/-- Every TA word is an access as the host issues it (R80, R90). -/
theorem exists_taTx (w : BitVec (Config.tmrOffBits + 2)) (b : Byte) (locks : Locks) :
    ∃ p wr off, (⟨.ta w, b, locks⟩ : Transaction) = taTx p wr off b locks :=
  ⟨_, _, _, congrArg (fun w => Transaction.mk (.ta w) b locks) (accessWord_fields w).symm⟩

/-- Every CA word is an access as the host issues it (R80, R90). -/
theorem exists_caTx (w : BitVec (Config.cryptoOffBits + 2)) (b : Byte) (locks : Locks) :
    ∃ p wr off, (⟨.ca w, b, locks⟩ : Transaction) = caTx p wr off b locks :=
  ⟨_, _, _, congrArg (fun w => Transaction.mk (.ca w) b locks) (accessWord_fields w).symm⟩

/-- A TIMER access the encoder gives decodes by its offset (R80, R84). -/
theorem decode_taTransaction (p : Variant) (wr : Bool) (off : TimerOffset) (b : Byte) :
    decode (taTransaction p wr off b) = .ok (if wr then timerWriteAt p off b else timerReadAt p off) := by
  refine (decode_taTx (variantBit p) wr off b noLocks).trans ?_
  cases p <;> rfl

theorem decode_timerRead {p : Variant} {off : TimerOffset} {b : Byte} {i : Instr} (h : timerReadAt p off = i) :
    decode (taTransaction p false off b) = .ok i :=
  h ▸ decode_taTransaction p false off b

theorem decode_timerWrite {p : Variant} {off : TimerOffset} {b : Byte} {i : Instr} (h : timerWriteAt p off b = i) :
    decode (taTransaction p true off b) = .ok i :=
  h ▸ decode_taTransaction p true off b

/-- A CRYPTO access the encoder gives decodes by its offset (R80, R86). -/
theorem decode_caTransaction (a : Access) (wr : Bool) (off : CryptoOffset) (b : Byte) :
    decode (caTransaction a wr off b) = .ok (if wr then cryptoWriteAt a off b else cryptoReadAt a off) := by
  refine (decode_caTx (accessBit a) wr off b (accessLocks a)).trans ?_
  cases a <;> rfl

theorem decode_cryptoRead {a : Access} {off : CryptoOffset} {b : Byte} {i : Instr} (h : cryptoReadAt a off = i) :
    decode (caTransaction a false off b) = .ok i :=
  h ▸ decode_caTransaction a false off b

theorem decode_cryptoWrite {a : Access} {off : CryptoOffset} {b : Byte} {i : Instr} (h : cryptoWriteAt a off b = i) :
    decode (caTransaction a true off b) = .ok i :=
  h ▸ decode_caTransaction a true off b

end Sys2Proof.Machine
end

section
/-! The offset maps of R84 and R86, in both directions: what stands at an offset the encoder writes, and the offset an
instruction read there spells. -/

namespace Sys2Proof.Machine

/-! ## What stands at an encoded offset -/

/-- What holds of the four byte lanes holds of every lane (R15). -/
theorem forall_lane {P : Lane → Prop} (h0 : P 0#2) (h1 : P 1#2) (h2 : P 2#2) (h3 : P 3#2) (k : Lane) : P k := by
  have hk : k = 0#2 ∨ k = 1#2 ∨ k = 2#2 ∨ k = 3#2 := by revert k; decide
  obtain rfl | rfl | rfl | rfl := hk <;> assumption

theorem not_lt_window_of_oorA {off : TimerOffset} (h : offIsOorA off = true) : ¬ off.toNat < Config.tmrWindow := by
  simp only [offIsOorA, decide_eq_true_eq] at h
  omega

/-- The row `OOR_B` holds the offsets that the window and the row `OOR_A` leave (R83, R130). -/
theorem oorB_iff {off : TimerOffset} :
    offIsOorB off = true ↔ ¬ off.toNat < Config.tmrWindow ∧ offIsOorA off = false := by
  simp only [offIsOorA, offIsOorB, decide_eq_true_eq, decide_eq_false_iff_not]
  omega

theorem timerReadAt_oorA (p : Variant) {off : TimerOffset} (h : offIsOorA off = true) :
    timerReadAt p off = .trdOorA p off := by
  rw [timerReadAt, if_neg (not_lt_window_of_oorA h), if_pos h]

theorem timerWriteAt_oorA (p : Variant) {off : TimerOffset} (b : Byte) (h : offIsOorA off = true) :
    timerWriteAt p off b = .twrOorA p off b := by
  rw [timerWriteAt, if_neg (not_lt_window_of_oorA h), if_pos h]

theorem timerReadAt_oorB (p : Variant) {off : TimerOffset} (h : offIsOorB off = true) :
    timerReadAt p off = .trdOorB p off := by
  obtain ⟨hout, hA⟩ := oorB_iff.mp h
  rw [timerReadAt, if_neg hout, if_neg (Bool.eq_false_iff.mp hA)]

theorem timerWriteAt_oorB (p : Variant) {off : TimerOffset} (b : Byte) (h : offIsOorB off = true) :
    timerWriteAt p off b = .twrOorB p off b := by
  obtain ⟨hout, hA⟩ := oorB_iff.mp h
  rw [timerWriteAt, if_neg hout, if_neg (Bool.eq_false_iff.mp hA)]

@[simp] theorem indexOf_wordOffset (idx : WordIndex) (k : Lane) : indexOf (wordOffset idx k) = idx :=
  BitVec.extractLsb'_append_eq_left

@[simp] theorem laneOf_wordOffset (idx : WordIndex) (k : Lane) : laneOf (wordOffset idx k) = k :=
  BitVec.extractLsb'_append_eq_right

/-- Only the control word has the control byte (R86, R87). -/
theorem wordOffset_ne_ctrlOff {idx : WordIndex} (h : idx ≠ indexOf Config.ctrlOff) (k : Lane) :
    wordOffset idx k ≠ Config.ctrlOff :=
  fun heq => h (by rw [← heq, indexOf_wordOffset])

/-- The word index of a message-block word selects that word and nothing else (R86). -/
theorem blockIndex_selects : ∀ j : BitVec 4,
    blockIndex j ≠ indexOf Config.ctrlOff ∧ blockIndex j ≠ Config.lastIdx ∧ indexInBlock (blockIndex j) = true ∧ blockWordOf (blockIndex j) = j := by
  decide

/-- The word index of a hash-state word selects that word and nothing else (R86). -/
theorem stateIndex_selects : ∀ j : BitVec 3,
    stateIndex j ≠ indexOf Config.ctrlOff ∧ stateIndex j ≠ Config.lastIdx ∧ indexInBlock (stateIndex j) = false ∧ indexInState (stateIndex j) = true ∧ stateWordOf (stateIndex j) = j := by
  decide

/-- An offset selects no readable word exactly when its word index is in no range of R86. -/
theorem offReadsNone_iff : ∀ off : CryptoOffset, offReadsNone off = true ↔
    indexOf off ≠ Config.lastIdx ∧ indexInBlock (indexOf off) = false ∧ indexInState (indexOf off) = false := by
  decide

theorem offWritesNone_iff {off : CryptoOffset} :
    offWritesNone off = true ↔ off ≠ Config.ctrlOff ∧ offReadsNone off = true := by
  simp [offWritesNone, and_comm]

theorem cryptoWriteAt_ctrlOff (a : Access) (v : Byte) : cryptoWriteAt a Config.ctrlOff v = .cwrCtrl a v := by
  simp [cryptoWriteAt]

theorem cryptoReadAt_lastIdx (a : Access) (k : Lane) : cryptoReadAt a (wordOffset Config.lastIdx k) = .crdLast a k := by
  simp [cryptoReadAt]

theorem cryptoWriteAt_lastIdx (a : Access) (k : Lane) (b : Byte) :
    cryptoWriteAt a (wordOffset Config.lastIdx k) b = .cwrLast a k b := by
  simp [cryptoWriteAt, wordOffset_ne_ctrlOff (show Config.lastIdx ≠ indexOf Config.ctrlOff by decide) k]

theorem cryptoReadAt_blockIndex (a : Access) (j : BitVec 4) (k : Lane) :
    cryptoReadAt a (wordOffset (blockIndex j) k) = blockReadAt a j k := by
  obtain ⟨_, hlast, hblock, hword⟩ := blockIndex_selects j
  simp [cryptoReadAt, hlast, hblock, hword]

theorem cryptoWriteAt_blockIndex (a : Access) (j : BitVec 4) (k : Lane) (b : Byte) :
    cryptoWriteAt a (wordOffset (blockIndex j) k) b = blockWriteAt a j k b := by
  obtain ⟨hctrl, hlast, hblock, hword⟩ := blockIndex_selects j
  simp [cryptoWriteAt, wordOffset_ne_ctrlOff hctrl k, hlast, hblock, hword]

theorem cryptoReadAt_stateIndex (a : Access) (j : BitVec 3) (k : Lane) :
    cryptoReadAt a (wordOffset (stateIndex j) k) = .crdState a j k := by
  obtain ⟨_, hlast, hblock, hstate, hword⟩ := stateIndex_selects j
  simp [cryptoReadAt, hlast, hblock, hstate, hword]

theorem cryptoWriteAt_stateIndex (a : Access) (j : BitVec 3) (k : Lane) (b : Byte) :
    cryptoWriteAt a (wordOffset (stateIndex j) k) b = .cwrState a j k b := by
  obtain ⟨hctrl, hlast, hblock, hstate, hword⟩ := stateIndex_selects j
  simp [cryptoWriteAt, wordOffset_ne_ctrlOff hctrl k, hlast, hblock, hstate, hword]

theorem cryptoReadAt_none (a : Access) {off : CryptoOffset} (h : offReadsNone off = true) :
    cryptoReadAt a off = .crdNone a off := by
  obtain ⟨hlast, hblock, hstate⟩ := (offReadsNone_iff off).mp h
  simp [cryptoReadAt, hlast, hblock, hstate]

theorem cryptoWriteAt_none (a : Access) {off : CryptoOffset} (b : Byte) (h : offWritesNone off = true) :
    cryptoWriteAt a off b = .cwrNone a off b := by
  obtain ⟨hctrl, hnone⟩ := offWritesNone_iff.mp h
  obtain ⟨hlast, hblock, hstate⟩ := (offReadsNone_iff off).mp hnone
  simp [cryptoWriteAt, hctrl, hlast, hblock, hstate]

/-- The rows `.A`, `.B` and `.C` of the message block are disjoint (R92). -/
theorem not_blockIsA_of_blockIsB {j : BitVec 4} (h : blockIsB j = true) : blockIsA j = false := by
  simp only [blockIsA, blockIsB, decide_eq_true_eq, decide_eq_false_iff_not] at h ⊢
  omega

/-- The row `.C` holds the words that the rows `.A` and `.B` leave (R92). -/
theorem blockIsC_iff {j : BitVec 4} : blockIsC j = true ↔ blockIsA j = false ∧ blockIsB j = false := by
  simp only [blockIsA, blockIsB, blockIsC, decide_eq_true_eq, decide_eq_false_iff_not]
  omega

theorem blockReadAt_A (a : Access) {j : BitVec 4} (k : Lane) (h : blockIsA j = true) :
    blockReadAt a j k = .crdBlockA a j k := by
  simp [blockReadAt, h]

theorem blockReadAt_B (a : Access) {j : BitVec 4} (k : Lane) (h : blockIsB j = true) :
    blockReadAt a j k = .crdBlockB a j k := by
  simp [blockReadAt, not_blockIsA_of_blockIsB h, h]

theorem blockReadAt_C (a : Access) {j : BitVec 4} (k : Lane) (h : blockIsC j = true) :
    blockReadAt a j k = .crdBlockC a j k := by
  simp [blockReadAt, blockIsC_iff.mp h]

theorem blockWriteAt_A (a : Access) {j : BitVec 4} (k : Lane) (b : Byte) (h : blockIsA j = true) :
    blockWriteAt a j k b = .cwrBlockA a j k b := by
  simp [blockWriteAt, h]

theorem blockWriteAt_B (a : Access) {j : BitVec 4} (k : Lane) (b : Byte) (h : blockIsB j = true) :
    blockWriteAt a j k b = .cwrBlockB a j k b := by
  simp [blockWriteAt, not_blockIsA_of_blockIsB h, h]

theorem blockWriteAt_C (a : Access) {j : BitVec 4} (k : Lane) (b : Byte) (h : blockIsC j = true) :
    blockWriteAt a j k b = .cwrBlockC a j k b := by
  simp [blockWriteAt, blockIsC_iff.mp h]

/-! ## The word an instruction read at an offset spells -/

/-- The instruction is well formed and is spelled by the word. -/
def Spells (i : Instr) (w : BusWord) : Prop := i.wf = true ∧ (encode i).word = w

theorem Spells.of_offset {i : Instr} {p wr : Bool} {off off' : TimerOffset} (h : off = off')
    (hi : Spells i (.ta (accessWord p wr off))) : Spells i (.ta (accessWord p wr off')) :=
  h ▸ hi

/-- An offset inside the window is the byte lane `off[1:0]` of the slot at `off[5:4]`, `off[3:2]` (R81, R82). -/
theorem slotOffset_fields : ∀ off : TimerOffset, off.toNat < Config.tmrWindow →
    slotOffset (0#2 ++ off.extractLsb' 4 2 ++ off.extractLsb' 2 2 ++ 0#2) (laneOf off) = off := by
  decide

/-- An offset is its lane of its word index (R85). -/
theorem wordOffset_fields : ∀ off : CryptoOffset, wordOffset (indexOf off) (laneOf off) = off := by
  decide

theorem timerReadAt_spells (p : Variant) (off : TimerOffset) :
    Spells (timerReadAt p off) (.ta (accessWord (variantBit p) false off)) := by
  unfold timerReadAt
  split
  next hwin =>
    have hslot := slotOffset_fields off hwin
    split
    all_goals
      next hn hr =>
        rw [hn, hr] at hslot
        exact Spells.of_offset hslot ⟨rfl, rfl⟩
  next hout =>
    split
    next hA => exact ⟨hA, rfl⟩
    next hA => exact ⟨oorB_iff.mpr ⟨hout, Bool.eq_false_iff.mpr hA⟩, rfl⟩

theorem timerWriteAt_spells (p : Variant) (off : TimerOffset) (b : Byte) :
    Spells (timerWriteAt p off b) (.ta (accessWord (variantBit p) true off)) := by
  unfold timerWriteAt
  split
  next hwin =>
    have hslot := slotOffset_fields off hwin
    split
    all_goals
      next hn hr =>
        rw [hn, hr] at hslot
        exact Spells.of_offset hslot ⟨rfl, rfl⟩
  next hout =>
    split
    next hA => exact ⟨hA, rfl⟩
    next hA => exact ⟨oorB_iff.mpr ⟨hout, Bool.eq_false_iff.mpr hA⟩, rfl⟩

theorem blockReadAt_spells (a : Access) (j : BitVec 4) (k : Lane) :
    Spells (blockReadAt a j k) (.ca (accessWord (accessBit a) false (wordOffset (blockIndex j) k))) := by
  unfold blockReadAt
  split
  next hA => exact ⟨hA, rfl⟩
  split
  next hB => exact ⟨hB, rfl⟩
  next hA hB => exact ⟨blockIsC_iff.mpr ⟨Bool.eq_false_iff.mpr hA, Bool.eq_false_iff.mpr hB⟩, rfl⟩

theorem blockWriteAt_spells (a : Access) (j : BitVec 4) (k : Lane) (b : Byte) :
    Spells (blockWriteAt a j k b) (.ca (accessWord (accessBit a) true (wordOffset (blockIndex j) k))) := by
  unfold blockWriteAt
  split
  next hA => exact ⟨hA, rfl⟩
  split
  next hB => exact ⟨hB, rfl⟩
  next hA hB => exact ⟨blockIsC_iff.mpr ⟨Bool.eq_false_iff.mpr hA, Bool.eq_false_iff.mpr hB⟩, rfl⟩

theorem cryptoReadAt_spells (a : Access) (off : CryptoOffset) :
    Spells (cryptoReadAt a off) (.ca (accessWord (accessBit a) false off)) := by
  rw [← wordOffset_fields off]
  generalize indexOf off = idx, laneOf off = k
  by_cases hlast : idx = Config.lastIdx
  · rw [hlast, cryptoReadAt_lastIdx]
    exact ⟨rfl, rfl⟩
  by_cases hblock : indexInBlock idx = true
  · rw [← blockIndex_blockWordOf idx hblock, cryptoReadAt_blockIndex]
    exact blockReadAt_spells ..
  by_cases hstate : indexInState idx = true
  · rw [← stateIndex_stateWordOf idx hstate, cryptoReadAt_stateIndex]
    exact ⟨rfl, rfl⟩
  have hnone : offReadsNone (wordOffset idx k) = true :=
    (offReadsNone_iff _).mpr (by simp [hlast, hblock, hstate])
  rw [cryptoReadAt_none a hnone]
  exact ⟨hnone, rfl⟩

theorem cryptoWriteAt_spells (a : Access) (off : CryptoOffset) (b : Byte) :
    Spells (cryptoWriteAt a off b) (.ca (accessWord (accessBit a) true off)) := by
  by_cases hctrl : off = Config.ctrlOff
  · rw [hctrl, cryptoWriteAt_ctrlOff]
    exact ⟨rfl, rfl⟩
  rw [← wordOffset_fields off] at hctrl ⊢
  generalize indexOf off = idx, laneOf off = k at hctrl ⊢
  by_cases hlast : idx = Config.lastIdx
  · rw [hlast, cryptoWriteAt_lastIdx]
    exact ⟨rfl, rfl⟩
  by_cases hblock : indexInBlock idx = true
  · rw [← blockIndex_blockWordOf idx hblock, cryptoWriteAt_blockIndex]
    exact blockWriteAt_spells ..
  by_cases hstate : indexInState idx = true
  · rw [← stateIndex_stateWordOf idx hstate, cryptoWriteAt_stateIndex]
    exact ⟨rfl, rfl⟩
  have hnone : offWritesNone (wordOffset idx k) = true :=
    offWritesNone_iff.mpr ⟨hctrl, (offReadsNone_iff _).mpr (by simp [hlast, hblock, hstate])⟩
  rw [cryptoWriteAt_none a b hnone]
  exact ⟨hnone, rfl⟩

end Sys2Proof.Machine
end

section
/-! The EV words (R89, R91). -/

namespace Sys2Proof.Machine

/-- The EV word spells no event: `code = 0b11`, `z = 1`, or `c1 = 1` on TRESET or CRESET (R91). -/
def IsReservedEvent (w : BitVec 4) : Prop :=
  w.extractLsb' 2 2 = 0b11#2 ∨ w.getLsbD 1 = true ∨
    (w.getLsbD 0 = true ∧ (w.extractLsb' 2 2 = 0b01#2 ∨ w.extractLsb' 2 2 = 0b10#2))

/-- All an EV word can decode to: an event it spells, or nothing when it is reserved (R89, R91). -/
theorem decodeEv_cases (w : BitVec 4) :
    (∃ i, decodeEv w = .ok i ∧ Spells i (.ev w) ∧ ¬ IsReservedEvent w) ∨
    (decodeEv w = .error (.reservedEvent w) ∧ IsReservedEvent w) := by
  have hfields : w.extractLsb' 2 2 ++ BitVec.ofBool (w.getLsbD 1) ++ BitVec.ofBool (w.getLsbD 0) = w := by
    revert w; decide
  unfold decodeEv
  split
  next hcode hz =>
    rw [hcode, hz] at hfields
    refine .inl ⟨_, rfl, ⟨rfl, congrArg BusWord.ev hfields⟩, ?_⟩
    simp only [IsReservedEvent, hcode, hz]
    simp
  next hcode hz hc1 =>
    rw [hcode, hz, hc1] at hfields
    refine .inl ⟨_, rfl, ⟨rfl, congrArg BusWord.ev hfields⟩, ?_⟩
    simp only [IsReservedEvent, hcode, hz, hc1]
    decide
  next hcode hz hc1 =>
    rw [hcode, hz, hc1] at hfields
    refine .inl ⟨_, rfl, ⟨rfl, congrArg BusWord.ev hfields⟩, ?_⟩
    simp only [IsReservedEvent, hcode, hz, hc1]
    decide
  next hcycle htreset hcreset =>
    refine .inr ⟨rfl, ?_⟩
    unfold IsReservedEvent
    generalize w.extractLsb' 2 2 = code, w.getLsbD 1 = z, w.getLsbD 0 = c1 at hcycle htreset hcreset ⊢
    induction code using forall_lane <;> cases z <;> simp_all

end Sys2Proof.Machine
end

section
/-! Decoding a whole transaction: the instruction it spells, or an EV word refused; and the step that takes it. -/

namespace Sys2Proof.Machine

/-- A transaction is an access as the host issues it, or an event (R80). -/
theorem transaction_cases (tx : Transaction) :
    (∃ p wr off b locks, tx = taTx p wr off b locks) ∨ (∃ p wr off b locks, tx = caTx p wr off b locks) ∨
    ∃ w b locks, tx = ⟨.ev w, b, locks⟩ := by
  obtain ⟨word, b, locks⟩ := tx
  cases word with
  | ta w =>
    obtain ⟨p, wr, off, htx⟩ := exists_taTx w b locks
    exact .inl ⟨p, wr, off, b, locks, htx⟩
  | ca w =>
    obtain ⟨p, wr, off, htx⟩ := exists_caTx w b locks
    exact .inr (.inl ⟨p, wr, off, b, locks, htx⟩)
  | ev w => exact .inr (.inr ⟨w, b, locks, rfl⟩)

/-- All a transaction can decode to: an instruction that spells its word, or nothing when it is a reserved EV word
(R90, R91). -/
theorem decode_cases (tx : Transaction) :
    (∃ i, decode tx = .ok i ∧ Spells i tx.word) ∨
    ∃ w, tx.word = .ev w ∧ IsReservedEvent w ∧ decode tx = .error (.reservedEvent w) := by
  obtain ⟨p, wr, off, b, locks, rfl⟩ | ⟨p, wr, off, b, locks, rfl⟩ | ⟨w, b, locks, rfl⟩ := transaction_cases tx
  · refine .inl ⟨_, decode_taTx p wr off b locks, ?_⟩
    cases p <;> cases wr
    · exact timerReadAt_spells .normal off
    · exact timerWriteAt_spells .normal off b
    · exact timerReadAt_spells .inspect off
    · exact timerWriteAt_spells .inspect off b
  · refine .inl ⟨_, decode_caTx p wr off b locks, ?_⟩
    cases p <;> cases wr
    · exact cryptoReadAt_spells (.normal locks) off
    · exact cryptoWriteAt_spells (.normal locks) off b
    · exact cryptoReadAt_spells .inspect off
    · exact cryptoWriteAt_spells .inspect off b
  · obtain ⟨i, hi, hspells, _⟩ | ⟨herror, hreserved⟩ := decodeEv_cases w
    · exact .inl ⟨i, hi, hspells⟩
    · exact .inr ⟨w, rfl, hreserved, herror⟩

theorem decode_spells {tx : Transaction} {i : Instr} (h : decode tx = .ok i) : Spells i tx.word := by
  obtain ⟨j, hj, hspells⟩ | ⟨_, _, _, herror⟩ := decode_cases tx
  · rw [h, Except.ok.injEq] at hj
    exact hj ▸ hspells
  · rw [h] at herror
    exact nomatch herror

/-- The branch of `step` that refuses (R91). -/
theorem step_of_decode_error {s : State} {tx : Transaction} {rest : List Transaction} {w : BitVec 4}
    (hpending : s.pending = tx :: rest) (hdecode : decode tx = .error (.reservedEvent w)) :
    step s = .refused (.reservedEvent w) := by
  simp only [step, State.fetch_cons hpending, hdecode]

/-- A step whose transaction spells an instruction completes and takes that transaction alone (R71, R230). -/
theorem step_completes {s : State} {tx : Transaction} {rest : List Transaction} {i : Instr}
    (hpending : s.pending = tx :: rest) (hdecode : decode tx = .ok i) :
    ∃ t, step s = .next t ∧ t.pending = rest := by
  obtain ⟨t, ht⟩ := exec_completes i (s.setPending rest)
  exact ⟨t, (step_of_decode_ok hpending hdecode).trans ht, exec_pending ht⟩

end Sys2Proof.Machine
end

section
/-! The opcode table: which rows select the word of an instruction (R92). -/

namespace Sys2Proof.Machine

/-- The encoder's word shows the match value of its instruction's row. -/
theorem matchesRow : ∀ i : Instr, Laws.MatchesRow.Statement i
  | .trdCnt0 _ _ => Laws.MatchesRow.trdCnt0 _ _
  | .trdRld0 _ _ => Laws.MatchesRow.trdRld0 _ _
  | .trdM00 _ _ => Laws.MatchesRow.trdM00 _ _
  | .trdM10 _ _ => Laws.MatchesRow.trdM10 _ _
  | .trdCnt1 _ _ => Laws.MatchesRow.trdCnt1 _ _
  | .trdRld1 _ _ => Laws.MatchesRow.trdRld1 _ _
  | .trdM01 _ _ => Laws.MatchesRow.trdM01 _ _
  | .trdM11 _ _ => Laws.MatchesRow.trdM11 _ _
  | .trdCnt2 _ _ => Laws.MatchesRow.trdCnt2 _ _
  | .trdRld2 _ _ => Laws.MatchesRow.trdRld2 _ _
  | .trdM02 _ _ => Laws.MatchesRow.trdM02 _ _
  | .trdM12 _ _ => Laws.MatchesRow.trdM12 _ _
  | .trdCtrl _ _ => Laws.MatchesRow.trdCtrl _ _
  | .trdStatus _ _ => Laws.MatchesRow.trdStatus _ _
  | .trdMask _ _ => Laws.MatchesRow.trdMask _ _
  | .trdRev _ _ => Laws.MatchesRow.trdRev _ _
  | .trdOorA _ _ => Laws.MatchesRow.trdOorA _ _
  | .trdOorB _ _ => Laws.MatchesRow.trdOorB _ _
  | .twrCnt0 _ _ _ => Laws.MatchesRow.twrCnt0 _ _ _
  | .twrRld0 _ _ _ => Laws.MatchesRow.twrRld0 _ _ _
  | .twrM00 _ _ _ => Laws.MatchesRow.twrM00 _ _ _
  | .twrM10 _ _ _ => Laws.MatchesRow.twrM10 _ _ _
  | .twrCnt1 _ _ _ => Laws.MatchesRow.twrCnt1 _ _ _
  | .twrRld1 _ _ _ => Laws.MatchesRow.twrRld1 _ _ _
  | .twrM01 _ _ _ => Laws.MatchesRow.twrM01 _ _ _
  | .twrM11 _ _ _ => Laws.MatchesRow.twrM11 _ _ _
  | .twrCnt2 _ _ _ => Laws.MatchesRow.twrCnt2 _ _ _
  | .twrRld2 _ _ _ => Laws.MatchesRow.twrRld2 _ _ _
  | .twrM02 _ _ _ => Laws.MatchesRow.twrM02 _ _ _
  | .twrM12 _ _ _ => Laws.MatchesRow.twrM12 _ _ _
  | .twrCtrl _ _ _ => Laws.MatchesRow.twrCtrl _ _ _
  | .twrStatus _ _ _ => Laws.MatchesRow.twrStatus _ _ _
  | .twrMask _ _ _ => Laws.MatchesRow.twrMask _ _ _
  | .twrRev _ _ _ => Laws.MatchesRow.twrRev _ _ _
  | .twrOorA _ _ _ => Laws.MatchesRow.twrOorA _ _ _
  | .twrOorB _ _ _ => Laws.MatchesRow.twrOorB _ _ _
  | .crdLast _ _ => Laws.MatchesRow.crdLast _ _
  | .crdBlockA _ _ _ => Laws.MatchesRow.crdBlockA _ _ _
  | .crdBlockB _ _ _ => Laws.MatchesRow.crdBlockB _ _ _
  | .crdBlockC _ _ _ => Laws.MatchesRow.crdBlockC _ _ _
  | .crdState _ _ _ => Laws.MatchesRow.crdState _ _ _
  | .crdNone _ _ => Laws.MatchesRow.crdNone _ _
  | .cwrCtrl _ _ => Laws.MatchesRow.cwrCtrl _ _
  | .cwrLast _ _ _ => Laws.MatchesRow.cwrLast _ _ _
  | .cwrBlockA _ _ _ _ => Laws.MatchesRow.cwrBlockA _ _ _ _
  | .cwrBlockB _ _ _ _ => Laws.MatchesRow.cwrBlockB _ _ _ _
  | .cwrBlockC _ _ _ _ => Laws.MatchesRow.cwrBlockC _ _ _ _
  | .cwrState _ _ _ _ => Laws.MatchesRow.cwrState _ _ _ _
  | .cwrNone _ _ _ => Laws.MatchesRow.cwrNone _ _ _
  | .tcycle _ => Laws.MatchesRow.tcycle _
  | .treset => Laws.MatchesRow.treset
  | .creset => Laws.MatchesRow.creset

theorem rowOf_hits {i : Instr} {w : BusWord} (h : Spells i w) : rowHits (rowOf i) w = true := by
  obtain ⟨hwf, rfl⟩ := h
  obtain ⟨hfmt, hmask⟩ := matchesRow i hwf
  simp [rowHits, hfmt, hmask]

/-- The table lists one row per constructor, in their order. -/
theorem opcodeRows_getElem? (i : Instr) : opcodeRows[i.ctorIdx]? = some (rowOf i) := by
  cases i <;> rfl

theorem rowOf_mem_opcodeRows (i : Instr) : rowOf i ∈ opcodeRows := List.mem_of_getElem? (opcodeRows_getElem? i)

/-- Rows that select the same word agree on the bits both of them look at. -/
theorem rows_agree_of_hits {r u : Row} {w : BusWord} (hr : rowHits r w = true) (hu : rowHits u w = true) :
    r.fmt = u.fmt ∧ r.pat &&& u.mask = u.pat &&& r.mask := by
  simp only [rowHits, Bool.and_eq_true, decide_eq_true_eq] at hr hu
  obtain ⟨hrfmt, hrpat⟩ := hr
  obtain ⟨hufmt, hupat⟩ := hu
  exact ⟨hrfmt.trans hufmt.symm, by rw [← hrpat, ← hupat]; ac_rfl⟩

/-- If some word could be selected by both rows, they differ in priority. -/
def RowsSeparate (r u : Row) : Prop :=
  r.fmt = u.fmt ∧ r.pat &&& u.mask = u.pat &&& r.mask → r.priority ≠ u.priority

theorem RowsSeparate.symm {r u : Row} (h : RowsSeparate r u) : RowsSeparate u r :=
  fun ⟨hfmt, hpat⟩ => (h ⟨hfmt.symm, hpat.symm⟩).symm

theorem opcodeRows_separate : opcodeRows.Pairwise RowsSeparate := by
  unfold RowsSeparate
  decide

/-- Two different rows that select the same word differ in priority. -/
theorem priority_ne_of_hits {r u : Row} {w : BusWord} (hr : r ∈ opcodeRows) (hu : u ∈ opcodeRows) (hne : r ≠ u)
    (hrw : rowHits r w = true) (huw : rowHits u w = true) : r.priority ≠ u.priority := by
  have hsymm : Std.Symm RowsSeparate := ⟨fun _ _ => RowsSeparate.symm⟩
  exact opcodeRows_separate.forall hr hu hne (rows_agree_of_hits hrw huw)

/-- The catch-all rows are those of the CRYPTO offsets that select nothing. -/
theorem catchAll_cases {i : Instr} (h : (rowOf i).priority ≠ 0) :
    (∃ a off, i = .crdNone a off) ∨ ∃ a off b, i = .cwrNone a off b := by
  cases i with
  | crdNone a off => exact .inl ⟨a, off, rfl⟩
  | cwrNone a off b => exact .inr ⟨a, off, b, rfl⟩
  | _ => exact absurd rfl h

theorem priority_eq_one {i : Instr} (h : (rowOf i).priority ≠ 0) : (rowOf i).priority = 1 := by
  obtain ⟨a, off, rfl⟩ | ⟨a, off, b, rfl⟩ := catchAll_cases h <;> rfl

/-- A row that selects a CA word looks, in its low bits, at the offset (R80). -/
theorem rowHits_ca_offset {r : Row} {p wr : Bool} {off : CryptoOffset}
    (h : rowHits r (.ca (accessWord p wr off)) = true) :
    r.fmt = .ca ∧ off &&& r.mask.setWidth 8 = r.pat.setWidth 8 := by
  simp only [rowHits, Bool.and_eq_true, decide_eq_true_eq] at h
  obtain ⟨hfmt, hpat⟩ := h
  have hoff : (wordBits (.ca (accessWord p wr off))).2.setWidth 8 = off :=
    BitVec.extractLsb'_append_eq_right
  exact ⟨hfmt, by rw [← hpat, BitVec.setWidth_and, hoff]⟩

/-- The offsets a CA row other than the catch-alls selects are named by the register map (R86, R87). -/
theorem specific_row_offset : ∀ r ∈ opcodeRows, r.fmt = .ca → r.priority = 0 → ∀ off : CryptoOffset,
    off &&& r.mask.setWidth 8 = r.pat.setWidth 8 →
    offReadsNone off = false ∨ (off = Config.ctrlOff ∧ r = rowOf (.cwrCtrl .inspect 0)) := by
  decide

theorem controlRow_misses_read : ∀ p : Bool,
    rowHits (rowOf (.cwrCtrl .inspect 0)) (.ca (accessWord p false Config.ctrlOff)) = false := by
  decide

/-- No row but a catch-all selects the word of an instruction of a catch-all row. -/
theorem priority_ne_zero_of_hits {i : Instr} {w : BusWord} {r : Row} (hi : (rowOf i).priority ≠ 0)
    (hspells : Spells i w) (hr : r ∈ opcodeRows) (hhit : rowHits r w = true) : r.priority ≠ 0 := by
  intro hzero
  obtain ⟨hwf, rfl⟩ := hspells
  obtain ⟨a, off, rfl⟩ | ⟨a, off, b, rfl⟩ := catchAll_cases hi
  · have hnone : offReadsNone off = true := hwf
    obtain ⟨hfmt, hoff⟩ := rowHits_ca_offset hhit
    obtain hnamed | ⟨rfl, rfl⟩ := specific_row_offset r hr hfmt hzero off hoff
    · exact absurd hnone (by simp [hnamed])
    · exact Bool.false_ne_true ((controlRow_misses_read (accessBit a)).symm.trans hhit)
  · obtain ⟨hctrl, hnone⟩ := offWritesNone_iff.mp hwf
    obtain ⟨hfmt, hoff⟩ := rowHits_ca_offset hhit
    obtain hnamed | ⟨hoff, _⟩ := specific_row_offset r hr hfmt hzero off hoff
    · exact absurd hnone (by simp [hnamed])
    · exact hctrl hoff

/-- A reserved EV word is selected by no row (R91). -/
theorem rowHits_of_reserved : ∀ w : BitVec 4, IsReservedEvent w →
    ∀ r ∈ opcodeRows, rowHits r (.ev w) = false := by
  unfold IsReservedEvent
  decide

end Sys2Proof.Machine
end

section
/-! The control byte (R88, R191). -/

namespace Sys2Proof.Machine

/-- INIT's pattern is that of the low digits 0xA and 0xB (R88, R191). -/
theorem selectsInit_iff : ∀ v : Byte,
    selectsInit v = true ↔ v.extractLsb' 0 4 = 0xA#4 ∨ v.extractLsb' 0 4 = 0xB#4 := by
  decide

/-- COMPRESS's pattern is that of INIT and of the low digits 0xE and 0xF (R88, R191). -/
theorem selectsCompress_iff : ∀ v : Byte, selectsCompress v = true ↔
    selectsInit v = true ∨ v.extractLsb' 0 4 = 0xE#4 ∨ v.extractLsb' 0 4 = 0xF#4 := by
  decide

/-- The hash state after a control operation, by the table of R88. -/
theorem controlOp_hash (c : CryptoBlock) (v : Byte) :
    (c.controlOp v).hash =
      if v.getLsbD 4 = true then #v[0, 0, 0, 0, 0, 0, 0, 0]
      else if v.extractLsb' 0 4 = 0xA#4 ∨ v.extractLsb' 0 4 = 0xB#4 then shaCompress shaIV c.block
      else if v.extractLsb' 0 4 = 0xE#4 ∨ v.extractLsb' 0 4 = 0xF#4 then shaCompress c.hash c.block
      else c.hash := by
  simp only [CryptoBlock.controlOp, ← selectsInit_iff]
  by_cases hzero : selectsZero v = true
  · rw [if_pos hzero, if_pos (show v.getLsbD 4 = true from hzero)]
    rfl
  rw [if_neg hzero, if_neg (show ¬ v.getLsbD 4 = true from hzero)]
  by_cases hinit : selectsInit v = true
  · have hcompress := (selectsCompress_iff v).mpr (.inl hinit)
    simp [hinit, hcompress]
  · by_cases hcompress : selectsCompress v = true
    · have hdigit := ((selectsCompress_iff v).mp hcompress).resolve_left hinit
      simp [hinit, hcompress, hdigit]
    · have hdigit : ¬ (v.extractLsb' 0 4 = 0xE#4 ∨ v.extractLsb' 0 4 = 0xF#4) :=
        fun h => hcompress ((selectsCompress_iff v).mpr (.inr h))
      simp only [hinit, hcompress, hdigit, if_false, Bool.false_eq_true]

/-- A control operation changes the hash state alone (R190-R194). -/
theorem controlOp_eq (c : CryptoBlock) (v : Byte) : c.controlOp v = { c with hash := (c.controlOp v).hash } := by
  obtain ⟨hblock, hlast⟩ := controlOp_frame c v
  rw [← hblock, ← hlast]

/-- An unlocked normal write records the index and has its data effect (R188). -/
theorem cryptoWrite_unlocked {locks : Locks} (h : locks.writeProtected = false) (idx : WordIndex)
    (f : CryptoBlock → CryptoBlock) (s : State) :
    cryptoWrite (.normal locks) idx f s = .next ((s.setCrypto (f (s.crypto.record idx))).answer none []) :=
  if_neg (by simp [h])

end Sys2Proof.Machine
end

section
/-! The statements of 30_encoding.md. -/

namespace Sys2Proof.Machine

/-- Settles O1: the encoder writes an offset of the instruction's own row, and that offset decodes to the row's
instruction with the operands the offset, the data byte and the lock inputs carry. -/
theorem decodeOfEncodeIsTheInstruction : Obligations.DecodeOfEncodeIsTheInstruction := by
  intro i hwf
  cases i with
  | trdCnt0 p k | trdRld0 p k | trdM00 p k | trdM10 p k | trdCnt1 p k | trdRld1 p k | trdM01 p k | trdM11 p k
  | trdCnt2 p k | trdRld2 p k | trdM02 p k | trdM12 p k | trdCtrl p k | trdStatus p k | trdMask p k | trdRev p k =>
    exact decode_timerRead (by induction k using forall_lane <;> rfl)
  | trdOorA p off => exact decode_timerRead (timerReadAt_oorA p hwf)
  | trdOorB p off => exact decode_timerRead (timerReadAt_oorB p hwf)
  | twrCnt0 p k b | twrRld0 p k b | twrM00 p k b | twrM10 p k b | twrCnt1 p k b | twrRld1 p k b | twrM01 p k b
  | twrM11 p k b | twrCnt2 p k b | twrRld2 p k b | twrM02 p k b | twrM12 p k b | twrCtrl p k b | twrStatus p k b
  | twrMask p k b | twrRev p k b =>
    exact decode_timerWrite (by induction k using forall_lane <;> rfl)
  | twrOorA p off b => exact decode_timerWrite (timerWriteAt_oorA p b hwf)
  | twrOorB p off b => exact decode_timerWrite (timerWriteAt_oorB p b hwf)
  | crdLast a k => exact decode_cryptoRead (cryptoReadAt_lastIdx a k)
  | crdBlockA a j k => exact decode_cryptoRead ((cryptoReadAt_blockIndex a j k).trans (blockReadAt_A a k hwf))
  | crdBlockB a j k => exact decode_cryptoRead ((cryptoReadAt_blockIndex a j k).trans (blockReadAt_B a k hwf))
  | crdBlockC a j k => exact decode_cryptoRead ((cryptoReadAt_blockIndex a j k).trans (blockReadAt_C a k hwf))
  | crdState a j k => exact decode_cryptoRead (cryptoReadAt_stateIndex a j k)
  | crdNone a off => exact decode_cryptoRead (cryptoReadAt_none a hwf)
  | cwrCtrl a v => exact decode_cryptoWrite (cryptoWriteAt_ctrlOff a v)
  | cwrLast a k b => exact decode_cryptoWrite (cryptoWriteAt_lastIdx a k b)
  | cwrBlockA a j k b => exact decode_cryptoWrite ((cryptoWriteAt_blockIndex a j k b).trans (blockWriteAt_A a k b hwf))
  | cwrBlockB a j k b => exact decode_cryptoWrite ((cryptoWriteAt_blockIndex a j k b).trans (blockWriteAt_B a k b hwf))
  | cwrBlockC a j k b => exact decode_cryptoWrite ((cryptoWriteAt_blockIndex a j k b).trans (blockWriteAt_C a k b hwf))
  | cwrState a j k b => exact decode_cryptoWrite (cryptoWriteAt_stateIndex a j k b)
  | cwrNone a off b => exact decode_cryptoWrite (cryptoWriteAt_none a b hwf)
  | tcycle clk1 => cases clk1 <;> rfl
  | treset | creset => rfl

/-- Settles O2: every offset's instruction is well formed and spells the word with that offset; so does every event. -/
theorem decodedInstructionSpellsItsWord : Obligations.DecodedInstructionSpellsItsWord := by
  intro tx i hdecode
  exact decode_spells hdecode

/-- Settles O3: the encoder's words show their row's match value, rows that select a common word differ in priority,
and no row of the register map selects the word of a catch-all instruction. -/
theorem opcodeTableSelectsDecodedRow : Obligations.OpcodeTableSelectsDecodedRow := by
  intro tx
  obtain ⟨i, hdecode, hspells⟩ | ⟨w, hword, hreserved, hdecode⟩ := decode_cases tx
  · rw [hdecode]
    have hhits := rowOf_hits hspells
    refine ⟨rowOf_mem_opcodeRows i, hhits, fun r hr hhit => ?_⟩
    by_cases hrow : r = rowOf i
    · exact .inl hrow
    have hprio := priority_ne_of_hits hr (rowOf_mem_opcodeRows i) hrow hhit hhits
    obtain ⟨j, _, rfl⟩ := List.mem_map.mp hr
    have hj : (rowOf j).priority ≠ 0 := by
      by_cases hi : (rowOf i).priority = 0
      · exact hi ▸ hprio
      · exact priority_ne_zero_of_hits hi hspells hr hhit
    have hlt : (rowOf i).priority < (rowOf j).priority := by
      have hone := priority_eq_one hj
      have hzero : (rowOf i).priority = 0 := by
        by_contra hi
        exact hprio (hone.trans (priority_eq_one hi).symm)
      omega
    refine .inr ⟨hlt, ?_⟩
    obtain ⟨_, _, rfl⟩ | ⟨_, _, _, rfl⟩ := catchAll_cases hj
    · exact .inl rfl
    · exact .inr rfl
  · rw [hdecode, hword]
    exact rowHits_of_reserved w hreserved

/-- Settles O42: the write is the control operation under the gate, and the control operation is R88's table. -/
theorem controlByteSelectsOperations : Obligations.ControlByteSelectsOperations := by
  intro s p v locks rest hpending hopen
  rw [step_of_decode_ok hpending (decode_caTx p true 0x00#8 v locks)]
  cases p with
  | true =>
    refine (cryptoWrite_inspect (indexOf Config.ctrlOff) (fun c => c.controlOp v) (s.setPending rest)).trans ?_
    rw [controlOp_eq, controlOp_hash]
    rfl
  | false =>
    have hunlocked : locks.writeProtected = false := hopen.resolve_left nofun
    refine (cryptoWrite_unlocked hunlocked _ (fun c => c.controlOp v) (s.setPending rest)).trans ?_
    rw [controlOp_eq, controlOp_hash]
    rfl

/-- Settles O4: each word's bits are its fields, and its offset's instruction is read off the register maps. -/
theorem vectorWordsDecode : Obligations.VectorWordsDecode := by
  intro b locks
  exact ⟨rfl, rfl, rfl, rfl, rfl, rfl, rfl, rfl, rfl⟩

/-- Settles O5: an EV word either spells an event, and no instruction is refused, or is reserved. -/
theorem reservedEventWordsAreRefused : Obligations.ReservedEventWordsAreRefused := by
  intro s w b locks rest hpending
  obtain ⟨i, hdecode, _, hlisted⟩ | ⟨hdecode, hreserved⟩ := decodeEv_cases w
  · obtain ⟨t, hstep, _⟩ := step_completes hpending hdecode
    exact ⟨fun hrefused => absurd (hstep.symm.trans hrefused) nofun, fun hreserved => absurd hreserved hlisted⟩
  · exact ⟨fun _ => hreserved, fun _ => step_of_decode_error hpending hdecode⟩

/-- Settles O9: every TA and CA word decodes. -/
theorem everyAccessWordCompletes : Obligations.EveryAccessWordCompletes := by
  intro s w b locks rest hpending
  obtain hpending | hpending := hpending
  · exact step_completes hpending rfl
  · exact step_completes hpending rfl

end Sys2Proof.Machine
end

section
/-! The register slot at an offset of the TIMER window (R81-R84): the map the decoder and the host's view share. -/

namespace Sys2Proof.Machine

/-- The register of each 32-bit slot of the TIMER window, counted from offset 0 (R84); none past the window (R83). -/
def timerRegOfSlot : Nat → TimerReg
  | 0 => .cnt 0
  | 1 => .rld 0
  | 2 => .m0 0
  | 3 => .m1 0
  | 4 => .cnt 1
  | 5 => .rld 1
  | 6 => .m0 1
  | 7 => .m1 1
  | 8 => .cnt 2
  | 9 => .rld 2
  | 10 => .m0 2
  | 11 => .m1 2
  | 12 => .ctrl
  | 13 => .status
  | 14 => .mask
  | 15 => .revision
  | _ => .outside

/-- The register an offset lies in (R81-R84). -/
def timerRegAt (off : TimerOffset) : TimerReg := timerRegOfSlot (off.toNat / 4)

/-- The slot a register stands in, the other way round; 16 for no register. -/
def TimerReg.slotNumber : TimerReg → Nat
  | .cnt n => 4 * n.val
  | .rld n => 4 * n.val + 1
  | .m0 n => 4 * n.val + 2
  | .m1 n => 4 * n.val + 3
  | .ctrl => 12
  | .status => 13
  | .mask => 14
  | .revision => 15
  | .outside => 16

/-! ## The map itself -/

theorem timerRegOfSlot_outside {m : Nat} (h : 16 ≤ m) : timerRegOfSlot m = .outside := by
  obtain ⟨n, rfl⟩ := Nat.exists_eq_add_of_le' h
  rfl

/-- No register stands in two slots. -/
theorem slotNumber_timerRegOfSlot (m : Nat) : (timerRegOfSlot m).slotNumber = min m 16 := by
  by_cases h : m < 16
  · have hslots : ∀ i < 16, (timerRegOfSlot i).slotNumber = min i 16 := by decide
    exact hslots m h
  · rw [timerRegOfSlot_outside (by omega), Nat.min_eq_right (by omega)]
    rfl

theorem slotNumber_timerRegAt (off : TimerOffset) : (timerRegAt off).slotNumber = min (off.toNat / 4) 16 :=
  slotNumber_timerRegOfSlot _

/-- Inside the window the slot is `n = off[5:4]`, `r = off[3:2]` (R81, R82). -/
theorem timerRegAt_of_fields {off : TimerOffset} (hwin : off.toNat < Config.tmrWindow) {n r : BitVec 2}
    (hn : off.extractLsb' 4 2 = n) (hr : off.extractLsb' 2 2 = r) :
    timerRegAt off = timerRegOfSlot (4 * n.toNat + r.toNat) := by
  have hslot : off.toNat / 4 = 4 * n.toNat + r.toNat := by
    simp only [← hn, ← hr, BitVec.extractLsb'_toNat, Nat.shiftRight_eq_div_pow]
    simp only [Config.tmrWindow] at hwin
    omega
  exact congrArg timerRegOfSlot hslot

theorem timerRegAt_outside {off : TimerOffset} (h : ¬ off.toNat < Config.tmrWindow) : timerRegAt off = .outside := by
  simp only [Config.tmrWindow] at h
  exact timerRegOfSlot_outside (by omega)

@[simp] theorem laneOf_toNat {n : Nat} (off : BitVec n) : (laneOf off).toNat = off.toNat % 4 := by
  simp [laneOf]

/-! ## The transaction as the decoder reads it -/

/-- A TIMER read at any offset is the read of the register there, whatever the variant (R101-R130). -/
theorem exec_timerReadAt (p : Variant) (off : TimerOffset) (s : State) :
    exec (timerReadAt p off) s = timerRead (timerRegAt off) (laneOf off) s := by
  unfold timerReadAt
  split
  next hwin =>
    split
    all_goals
      next hn hr =>
        rw [timerRegAt_of_fields hwin hn hr]
        rfl
  next hout =>
    rw [timerRegAt_outside hout]
    split <;> rfl

/-- A TIMER write at any offset is the byte write of the register there, whatever the variant (R101-R131). -/
theorem exec_timerWriteAt_reg (p : Variant) (off : TimerOffset) (b : Byte) (s : State) :
    exec (timerWriteAt p off b) s = timerWrite (timerRegAt off) (laneOf off) b s := by
  unfold timerWriteAt
  split
  next hwin =>
    split
    all_goals
      next hn hr =>
        rw [timerRegAt_of_fields hwin hn hr]
        rfl
  next hout =>
    rw [timerRegAt_outside hout]
    split <;> rfl

/-- The step on a TIMER read. -/
theorem step_timerRead {s : State} {p : Bool} {off : TimerOffset} {b : Byte} {locks : Locks} {rest : List Transaction}
    (hpending : s.pending = taTx p false off b locks :: rest) :
    step s = .next ((s.setPending rest).answer (some (byteOf (s.timer.slot (timerRegAt off)) (laneOf off))) []) :=
  (step_of_decode_ok hpending (decode_taTx p false off b locks)).trans (exec_timerReadAt _ off _)

/-- The step on a TIMER write. -/
theorem step_timerWrite {s : State} {p : Bool} {off : TimerOffset} {b : Byte} {locks : Locks} {rest : List Transaction}
    (hpending : s.pending = taTx p true off b locks :: rest) :
    step s = .next (((s.setPending rest).setTimer (s.timer.writeSlot (timerRegAt off) (laneOf off) b)).answer none []) :=
  (step_of_decode_ok hpending (decode_taTx p true off b locks)).trans (exec_timerWriteAt_reg _ off b _)

/-! ## The window as the host sees it -/

/-- The offset map of R84 shows the register at each offset. -/
theorem slot_timerRegAt (t : TimerBlock) (off : TimerOffset) : t.slot (timerRegAt off) = t.windowWord off := by
  unfold timerRegAt timerRegOfSlot TimerBlock.windowWord
  split <;> simp [TimerBlock.slot, *]

theorem windowByte_eq (t : TimerBlock) (off : TimerOffset) :
    t.windowByte off = byteOf (t.slot (timerRegAt off)) (laneOf off) := by
  rw [slot_timerRegAt, byteOf, laneOf_toNat, TimerBlock.windowByte]

end Sys2Proof.Machine
end

section
/-! What a byte write of each TIMER register does to the bits of the block, and what it leaves. -/

namespace Sys2Proof.Machine

/-! ## The counter, reload and match registers: the slots below 12 -/

/-- The written register takes the byte (R106-R109). -/
theorem TimerBlock.writeSlot_slot_self (t : TimerBlock) {r : TimerReg} (k : Lane) (b : Byte) (hr : r.slotNumber < 12) :
    (t.writeSlot r k b).slot r = setByte (t.slot r) k b := by
  cases r with
  | cnt n | rld n | m0 n | m1 n =>
    simp only [TimerBlock.writeSlot, TimerBlock.setCnt, TimerBlock.slot, TimerBlock.setRegs_timers_self]
  | ctrl | status | mask | revision | outside => exact absurd hr (by decide)

/-- Every other register reads as before (R106-R109). -/
theorem TimerBlock.writeSlot_slot_ne (t : TimerBlock) {r q : TimerReg} (k : Lane) (b : Byte) (hr : r.slotNumber < 12)
    (hq : q ≠ r) : (t.writeSlot r k b).slot q = t.slot q := by
  cases r with
  | cnt n | rld n | m0 n | m1 n =>
    cases q with
    | cnt m | rld m | m0 m | m1 m =>
      obtain rfl | hnm := eq_or_ne n m
      · simp_all only [TimerBlock.writeSlot, TimerBlock.setCnt, TimerBlock.slot, TimerBlock.setRegs_timers_self, ne_eq,
          not_true_eq_false]
      · simp only [TimerBlock.writeSlot, TimerBlock.setCnt, TimerBlock.slot, TimerBlock.setRegs_timers_ne _ _ hnm]
    | ctrl | status | mask | revision | outside => rfl
  | ctrl | status | mask | revision | outside => exact absurd hr (by decide)

/-- No line moves (R110). -/
theorem TimerBlock.writeSlot_irq (t : TimerBlock) {r : TimerReg} (k : Lane) (b : Byte) (hr : r.slotNumber < 12) :
    (t.writeSlot r k b).irq = t.irq := by
  cases r with
  | cnt n | rld n | m0 n | m1 n => rfl
  | ctrl | status | mask | revision | outside => exact absurd hr (by decide)

/-- The host's view: the one byte of the window is replaced (R106-R109). -/
theorem windowByte_writeSlot (t : TimerBlock) {off : TimerOffset} (b : Byte) (hoff : off.toNat < 0x30)
    (a : TimerOffset) :
    (t.writeSlot (timerRegAt off) (laneOf off) b).windowByte a = if a = off then b else t.windowByte a := by
  have hslotOff := slotNumber_timerRegAt off
  have hslotA := slotNumber_timerRegAt a
  have hr : (timerRegAt off).slotNumber < 12 := by omega
  rw [windowByte_eq, windowByte_eq]
  by_cases hreg : timerRegAt a = timerRegAt off
  · rw [hreg, TimerBlock.writeSlot_slot_self _ _ _ hr]
    by_cases ha : a = off
    · rw [if_pos ha, ha, byteOf_setByte_self]
    · have hlane : laneOf a ≠ laneOf off := by
        intro heq
        have hmod : a.toNat % 4 = off.toNat % 4 := by rw [← laneOf_toNat, heq, laneOf_toNat]
        rw [hreg] at hslotA
        exact ha (BitVec.eq_of_toNat_eq (by omega))
      rw [if_neg ha, byteOf_setByte_ne _ _ hlane]
  · have ha : a ≠ off := fun heq => hreg (by rw [heq])
    rw [TimerBlock.writeSlot_slot_ne _ _ _ hr hreg, if_neg ha]

/-! ## `ctrl`, `status` and `mask` -/

/-- In a register of fewer than 32 bits too, `setByte` takes the new byte's bits in its lane and keeps the others
(R116, R126). -/
theorem setByte_narrow_getLsbD {w : Nat} (hw : w ≤ 32) (v : BitVec w) (k : Lane) (b : Byte) {i : Nat} (hi : i < w) :
    ((setByte (v.setWidth 32) k b).extractLsb' 0 w).getLsbD i =
      if i / 8 = k.toNat then b.getLsbD (i % 8) else v.getLsbD i := by
  have hi32 : i < 32 := by omega
  simp only [BitVec.getLsbD_extractLsb', BitVec.getLsbD_setWidth, Nat.zero_add, setByte_getLsbD, hi, hi32, decide_true,
    Bool.true_and]

/-- After a recompute a line is high exactly when its timer has an unmasked pending bit (R121). -/
theorem TimerBlock.irqRecompute_irq_iff (t : TimerBlock) (n : TimerIx) :
    t.irqRecompute.irq[n] = true ↔
      ∃ k < 3, t.status.getLsbD (3 * n.val + k) = true ∧ t.mask.getLsbD (3 * n.val + k) = false := by
  rw [TimerBlock.irqRecompute_irq_get, unmasked_eq, unmaskedIn_iff]

/-- A write of `revision` or outside the window has no effect (R129, R131). -/
theorem TimerBlock.writeSlot_ignored (t : TimerBlock) {r : TimerReg} (k : Lane) (b : Byte) (hr : 15 ≤ r.slotNumber) :
    t.writeSlot r k b = t := by
  cases r with
  | revision | outside => rfl
  | ctrl | status | mask => exact absurd hr (by decide)
  | cnt n | rld n | m0 n | m1 n =>
    simp only [TimerReg.slotNumber] at hr
    omega

end Sys2Proof.Machine
end

section
/-! The statements of 40_timer_access.md. -/

namespace Sys2Proof.Machine

/-- Settles O10: the step reads the register at the offset, which is what the offset map shows there. -/
theorem timerReadAnswersMappedByte : Obligations.TimerReadAnswersMappedByte := by
  intro s p off b locks rest hpending
  rw [step_timerRead hpending, windowByte_eq]
  rfl

/-- Settles O11: the step writes the register at the offset, one of the slots below 12. -/
theorem timerRegisterWriteReplacesOneByte : Obligations.TimerRegisterWriteReplacesOneByte := by
  intro s p off b locks rest hpending hoff
  have hslot : (timerRegAt off).slotNumber < 12 := by
    have := slotNumber_timerRegAt off
    omega
  exact ⟨_, step_timerWrite hpending, windowByte_writeSlot s.timer b hoff, TimerBlock.writeSlot_delayStatus ..,
    TimerBlock.writeSlot_delayIntrpt .., TimerBlock.writeSlot_irq _ _ _ hslot, rfl, rfl, rfl, rfl⟩

/-- Settles O12: the offset's register is `ctrl`, whose write replaces a byte of the twelve bits. -/
theorem controlWriteReplacesExistingBits : Obligations.ControlWriteReplacesExistingBits := by
  intro s p off b locks rest hpending hlo hhi
  have hreg : timerRegAt off = .ctrl := congrArg timerRegOfSlot (by omega : off.toNat / 4 = 12)
  refine ⟨(s.timer.writeSlot .ctrl (laneOf off) b).ctrl, ?_, fun i hi => ?_⟩
  · rw [step_timerWrite hpending, hreg]
    rfl
  · rw [← laneOf_toNat]
    exact setByte_narrow_getLsbD (by decide) s.timer.ctrl (laneOf off) b hi

/-- Settles O13: the offset's register is `status`, whose write clears the ones and recomputes the lines. -/
theorem statusWriteClearsOnes : Obligations.StatusWriteClearsOnes := by
  intro s p off b locks rest hpending hlo hhi
  have hreg : timerRegAt off = .status := congrArg timerRegOfSlot (by omega : off.toNat / 4 = 13)
  refine ⟨(s.timer.writeSlot .status (laneOf off) b).status, (s.timer.writeSlot .status (laneOf off) b).irq, ?_,
    fun i hi => ?_, TimerBlock.irqRecompute_irq_iff _⟩
  · rw [step_timerWrite hpending, hreg]
    rfl
  · simp only [TimerBlock.writeSlot_status_getLsbD _ _ _ hi, laneOf_toNat, eq_comm (a := i / 8)]

/-- Settles O14: the offset's register is `mask`, whose write replaces a byte of the nine bits and recomputes the
lines. -/
theorem maskWriteReplacesExistingBits : Obligations.MaskWriteReplacesExistingBits := by
  intro s p off b locks rest hpending hlo hhi
  have hreg : timerRegAt off = .mask := congrArg timerRegOfSlot (by omega : off.toNat / 4 = 14)
  refine ⟨(s.timer.writeSlot .mask (laneOf off) b).mask, (s.timer.writeSlot .mask (laneOf off) b).irq, ?_,
    fun i hi => ?_, TimerBlock.irqRecompute_irq_iff _⟩
  · rw [step_timerWrite hpending, hreg]
    rfl
  · rw [← laneOf_toNat]
    exact setByte_narrow_getLsbD (by decide) s.timer.mask (laneOf off) b hi

/-- Settles O15: from slot 15 on a write has no effect on the TimerBlock. -/
theorem revisionAndOutsideWritesAreIgnored : Obligations.RevisionAndOutsideWritesAreIgnored := by
  intro s p off b locks rest hpending hoff
  have hslot : 15 ≤ (timerRegAt off).slotNumber := by
    have := slotNumber_timerRegAt off
    omega
  rw [step_timerWrite hpending, TimerBlock.writeSlot_ignored _ _ _ hslot]
  rfl

/-- Settles O16: the step on a TIMER access is the same for either value of `P`, and a read keeps both blocks. -/
theorem timerPeekAndPokeEqualNormal : Obligations.TimerPeekAndPokeEqualNormal := by
  intro s off b locks rest
  have hread (p : Bool) := step_timerRead (s := { s with pending := taTx p false off b locks :: rest }) rfl
  have hwrite (p : Bool) := step_timerWrite (s := { s with pending := taTx p true off b locks :: rest }) rfl
  refine ⟨fun w => ?_, _, hread true, rfl, rfl⟩
  cases w with
  | false => exact (hread true).trans (hread false).symm
  | true => exact (hwrite true).trans (hwrite false).symm

end Sys2Proof.Machine
end

section
/-! A block cycle field by field (R140), from the whole cycle's equation `cycle_eq`. -/

namespace Sys2Proof.Machine

@[simp] theorem cycle_timers (t : TimerBlock) (c : Config) (clk1 : Bool) :
    (t.cycle c clk1).block.timers = t.countedAll clk1 := by rw [cycle_eq]
@[simp] theorem cycle_ctrl (t : TimerBlock) (c : Config) (clk1 : Bool) : (t.cycle c clk1).block.ctrl = t.ctrl := by
  rw [cycle_eq]
@[simp] theorem cycle_status (t : TimerBlock) (c : Config) (clk1 : Bool) :
    (t.cycle c clk1).block.status = t.statusAfterAge := by rw [cycle_eq]
@[simp] theorem cycle_mask (t : TimerBlock) (c : Config) (clk1 : Bool) : (t.cycle c clk1).block.mask = t.mask := by
  rw [cycle_eq]
@[simp] theorem cycle_revision (t : TimerBlock) (c : Config) (clk1 : Bool) :
    (t.cycle c clk1).block.revision = t.revision := by rw [cycle_eq]
@[simp] theorem cycle_irq (t : TimerBlock) (c : Config) (clk1 : Bool) :
    (t.cycle c clk1).block.irq = t.irqAfterAge := by rw [cycle_eq]
@[simp] theorem cycle_delayStatus (t : TimerBlock) (c : Config) (clk1 : Bool) :
    (t.cycle c clk1).block.delayStatus = pushed c.pipeCap t.keptStatus (statusEntryOf c) (t.raised clk1) := by
  rw [cycle_eq]
@[simp] theorem cycle_delayIntrpt (t : TimerBlock) (c : Config) (clk1 : Bool) :
    (t.cycle c clk1).block.delayIntrpt = pushed c.pipeCap t.keptIntrpt (intrptEntryOf c) (t.raised clk1) := by
  rw [cycle_eq]
@[simp] theorem cycle_diags (t : TimerBlock) (c : Config) (clk1 : Bool) :
    (t.cycle c clk1).diags = overruns c.pipeCap t.keptStatus.length t.keptIntrpt.length (t.raised clk1) := by
  rw [cycle_eq]

/-- The outcome of a block cycle of this machine (R140). -/
theorem exec_tcycle (clk1 : Bool) (s : State) :
    exec (.tcycle clk1) s = .next ((s.setTimer (s.timer.cycle Config.params clk1).block).answer none
      (s.timer.cycle Config.params clk1).diags) := rfl

end Sys2Proof.Machine
end

section
/-! How full a delay pipeline can get when at most three of its entries are due in the same cycle (R156). Both pipelines
are treated at once, by the list of their entries' times left. -/

namespace Sys2Proof.Machine

variable {ε : Type}

/-- Every time left is 1 to `delay` cycles, and none stands more than three times. -/
def Spread (delay : Nat) (rems : List Int) : Prop := (∀ r ∈ rems, 1 ≤ r ∧ r ≤ delay) ∧ ∀ r, rems.count r ≤ 3

/-- The times left after the ageing of a cycle: the entries due in it leave (R150). -/
def agedRems (rems : List Int) : List Int := (rems.filter fun r => r ≠ 1).map fun r => r - 1

theorem map_rem_aged {rem : ε → Int} {age : ε → ε} (hrem : ∀ e, rem (age e) = rem e - 1) (l : List ε) :
    ((l.filter fun e => rem e ≠ 1).map age).map rem = agedRems (l.map rem) := by
  have hcomp : rem ∘ age = (fun r => r - 1) ∘ rem := funext hrem
  rw [agedRems, List.filter_map, List.map_map, List.map_map, hcomp]
  rfl

/-- At most three entries for each of `delay` cycles. -/
theorem Spread.length_le {delay : Nat} {rems : List Int} (h : Spread delay rems) : rems.length ≤ 3 * delay := by
  obtain ⟨hrange, hcount⟩ := h
  have hcycles : rems.toFinset ⊆ Finset.Icc (1 : Int) delay := fun r hr =>
    Finset.mem_Icc.mpr (hrange r (List.mem_toFinset.mp hr))
  have hcard : rems.toFinset.card ≤ delay := by simpa using Finset.card_le_card hcycles
  calc rems.length = ∑ r ∈ rems.toFinset, rems.count r := (List.sum_toFinset_count_eq_length rems).symm
    _ ≤ rems.toFinset.card * 3 := Finset.sum_le_card_nsmul _ _ 3 fun r _ => hcount r
    _ ≤ 3 * delay := by omega

/-- After the ageing nothing is due in the last of the cycles. -/
theorem Spread.aged {delay : Nat} {rems : List Int} (h : Spread (delay + 1) rems) : Spread delay (agedRems rems) := by
  obtain ⟨hrange, hcount⟩ := h
  refine ⟨fun r' hr' => ?_, fun r => ?_⟩
  · obtain ⟨r, hr, rfl⟩ := List.mem_map.mp hr'
    obtain ⟨hmem, hnotDue⟩ := List.mem_filter.mp hr
    have hne : r ≠ 1 := of_decide_eq_true hnotDue
    have := hrange r hmem
    omega
  · have hinj : Function.Injective fun x : Int => x - 1 := fun x y hxy => by simpa using hxy
    calc (agedRems rems).count r = (agedRems rems).count (r + 1 - 1) := by rw [Int.add_sub_cancel]
      _ = (rems.filter fun r => r ≠ 1).count (r + 1) := List.count_map_of_injective _ _ hinj _
      _ ≤ rems.count (r + 1) := List.filter_sublist.count_le _
      _ ≤ 3 := hcount _

/-- Three more entries, all due in the one cycle that had none. -/
theorem Spread.enqueued {delay k : Nat} {rems : List Int} (h : Spread delay rems) (hk : k ≤ 3) :
    Spread (delay + 1) (rems ++ List.replicate k ((delay + 1 : Nat) : Int)) := by
  obtain ⟨hrange, hcount⟩ := h
  refine ⟨fun r hr => ?_, fun r => ?_⟩
  · obtain hold | hnew := List.mem_append.mp hr
    · have := hrange r hold
      omega
    · have := List.eq_of_mem_replicate hnew
      omega
  · rw [List.count_append, List.count_replicate]
    split
    next heq =>
      have heq' : ((delay + 1 : Nat) : Int) = r := by simpa using heq
      have hnone : rems.count r = 0 := List.count_eq_zero.mpr fun hr => by
        have := hrange r hr
        omega
      omega
    next => exact hcount r

/-! ## One cycle of a pipeline -/

/-- With room for all, every event is pushed. -/
theorem pushed_of_room {cap : Nat} {l : List ε} {new : List (TimerIx × BitVec 3)} (f : TimerIx × BitVec 3 → ε)
    (hroom : new.length ≤ cap - l.length) : pushed cap l f new = l ++ new.map f := by
  rw [pushed, List.take_of_length_le hroom]

theorem overruns_of_room {cap s i : Nat} {new : List (TimerIx × BitVec 3)} (hs : new.length ≤ cap - s)
    (hi : new.length ≤ cap - i) : overruns cap s i new = [] := by
  rw [overruns, Nat.sub_eq_zero_of_le hs, Nat.sub_eq_zero_of_le hi]
  rfl

/-- A pipeline with room for three entries for each cycle of the delay has room for the three events of a cycle, and
takes them with no more than three due in the same cycle again (R156). -/
theorem spread_cycle {cap delay : Nat} {rem : ε → Int} {age : ε → ε} {l : List ε} {f : TimerIx × BitVec 3 → ε}
    {new : List (TimerIx × BitVec 3)} (hspread : Spread delay (l.map rem)) (hdelay : 1 ≤ delay) (hcap : 3 * delay ≤ cap)
    (hage : ∀ e, rem (age e) = rem e - 1) (hf : ∀ x, rem (f x) = delay) (hnew : new.length ≤ 3) :
    new.length ≤ cap - ((l.filter fun e => rem e ≠ 1).map age).length ∧
      Spread delay ((pushed cap ((l.filter fun e => rem e ≠ 1).map age) f new).map rem) := by
  obtain ⟨d, rfl⟩ : ∃ d, delay = d + 1 := ⟨delay - 1, by omega⟩
  have hkept : Spread d (((l.filter fun e => rem e ≠ 1).map age).map rem) := by
    rw [map_rem_aged hage]
    exact hspread.aged
  have hlength := hkept.length_le
  rw [List.length_map] at hlength
  have hroom : new.length ≤ cap - ((l.filter fun e => rem e ≠ 1).map age).length := by omega
  have hrems : (new.map f).map rem = List.replicate new.length ((d + 1 : Nat) : Int) := by
    rw [List.map_map, List.map_eq_replicate_iff]
    exact fun x _ => hf x
  refine ⟨hroom, ?_⟩
  rw [pushed_of_room f hroom, List.map_append, hrems]
  exact hkept.enqueued hnew

/-! ## The block -/

/-- The three timers raise at most one event vector each (R140, R156). -/
theorem raised_length_le (t : TimerBlock) (clk1 : Bool) : (t.raised clk1).length ≤ 3 :=
  List.length_filterMap_le _ _

/-- What the invariant and `threePerCycle` say together of the two pipelines' times left. -/
theorem TimerBlock.Inv.spread {c : Config} {t : TimerBlock} (h : t.Inv c) (h3 : t.threePerCycle) :
    Spread c.statusDelay (t.delayStatus.map StatusEntry.rem) ∧
      Spread c.intrptDelay (t.delayIntrpt.map IntrptEntry.rem) := by
  obtain ⟨_, _, ⟨_, hstatus, _⟩, _, hintrpt, _⟩ := h
  refine ⟨⟨fun r hr => ?_, fun r => (h3 r).1⟩, fun r hr => ?_, fun r => (h3 r).2⟩
  · obtain ⟨e, he, rfl⟩ := List.mem_map.mp hr
    exact (hstatus e he).2
  · obtain ⟨e, he, rfl⟩ := List.mem_map.mp hr
    exact (hintrpt e he).2

/-- With at least the default capacity a cycle drops no entry, and leaves no more than three of a pipeline due in the
same cycle (R156). -/
theorem roomy_cycle {c : Config} (hroomy : pipesRoomy c) {t : TimerBlock} (h : t.Inv c) (h3 : t.threePerCycle)
    (clk1 : Bool) : (t.cycle c clk1).diags = [] ∧ (t.cycle c clk1).block.threePerCycle := by
  obtain ⟨hstatus, hintrpt⟩ := h.spread h3
  have hone : 1 ≤ c.statusDelay := Nat.le_add_left 1 _
  have hle : c.statusDelay ≤ c.intrptDelay := Nat.le_add_right _ _
  unfold pipesRoomy at hroomy
  have hraised := raised_length_le t clk1
  obtain ⟨hroomS, hspreadS⟩ := spread_cycle (cap := c.pipeCap) (f := statusEntryOf c) hstatus hone (by omega)
    StatusEntry.age_rem (fun _ => rfl) hraised
  obtain ⟨hroomI, hspreadI⟩ := spread_cycle (cap := c.pipeCap) (f := intrptEntryOf c) hintrpt (by omega) (by omega)
    IntrptEntry.age_rem (fun _ => rfl) hraised
  refine ⟨?_, fun r => ?_⟩
  · rw [cycle_diags]
    exact overruns_of_room hroomS hroomI
  · rw [cycle_delayStatus, cycle_delayIntrpt]
    exact ⟨hspreadS.2 r, hspreadI.2 r⟩

end Sys2Proof.Machine
end

section
/-! An instruction other than a block cycle: the same under any parameters, and with no diagnostic (R7, R236). -/

namespace Sys2Proof.Machine

theorem execWith_eq_exec {i : Instr} (hi : ∀ clk1, i ≠ .tcycle clk1) (c : Config) (s : State) :
    execWith c i s = exec i s := by
  cases i with
  | tcycle clk1 => exact absurd rfl (hi clk1)
  | _ => rfl

/-- Only a block cycle can emit a diagnostic (R236). -/
theorem exec_diags {i : Instr} (hi : ∀ clk1, i ≠ .tcycle clk1) {s t : State} (h : exec i s = .next t) :
    t.diags = [] := by
  cases h ▸ exec_meaning i s with
  | timerRead _ _ hx => rw [timerRead_next hx.symm]; rfl
  | timerWrite _ _ _ hx _ => rw [timerWrite_next hx.symm]; rfl
  | cryptoRead _ _ _ hx => obtain ⟨_, rfl⟩ | ⟨_, _, _, rfl⟩ | ⟨_, _, _, rfl⟩ := cryptoRead_cases hx.symm <;> rfl
  | control _ _ _ hx | blockWrite _ _ _ _ _ hx | dataless _ _ hx =>
    obtain ⟨_, rfl⟩ | ⟨_, _, _, rfl⟩ | ⟨_, _, _, rfl⟩ := cryptoWrite_cases hx.symm <;> rfl
  | cycle clk1 heq _ => exact absurd heq (hi clk1)
  | timerReset _ hx => rw [execTreset_next hx.symm]; rfl
  | cryptoReset _ hx => rw [execCreset_next hx.symm]; rfl

theorem TimerBlock.threePerCycle_reset (revision : Word) : (TimerBlock.reset revision).threePerCycle :=
  fun _ => ⟨Nat.zero_le 3, Nat.zero_le 3⟩

/-- A write leaves every entry in place, due when it was (R157). -/
theorem TimerBlock.threePerCycle_writeSlot {t : TimerBlock} (h : t.threePerCycle) (r : TimerReg) (k : Lane) (b : Byte) :
    (t.writeSlot r k b).threePerCycle := by
  rwa [TimerBlock.threePerCycle, TimerBlock.writeSlot_delayStatus, TimerBlock.writeSlot_delayIntrpt]

/-- Under any parameters an instruction other than a block cycle keeps the invariant and what is due when. -/
theorem exec_keeps_inv_threePerCycle {c : Config} {i : Instr} (hi : ∀ clk1, i ≠ .tcycle clk1) {s t : State}
    (h : exec i s = .next t) (hinv : s.timer.Inv c) (h3 : s.timer.threePerCycle) :
    t.timer.Inv c ∧ t.timer.threePerCycle := by
  obtain heq | ⟨r, k, b, _, heq⟩ | ⟨clk1, htcycle, _⟩ | ⟨_, heq⟩ := exec_timer_cases h
  · rw [heq]
    exact ⟨hinv, h3⟩
  · rw [heq]
    exact ⟨hinv.writeSlot r k b, TimerBlock.threePerCycle_writeSlot h3 r k b⟩
  · exact absurd htcycle (hi clk1)
  · rw [heq, hinv.1]
    exact ⟨TimerBlock.inv_reset c, TimerBlock.threePerCycle_reset _⟩

end Sys2Proof.Machine
end

section
/-! The statements of 41_timer_operation.md on the capacity of the delay pipelines and on what moves them. -/

namespace Sys2Proof.Machine

/-- Settles O28: the reset block's pipelines are empty; a block cycle finds room for its events, because what it keeps
is at most three entries for each of the cycles before the last; no other instruction pushes an entry. -/
theorem defaultCapacityNeverOverruns : Obligations.DefaultCapacityNeverOverruns := by
  refine ⟨fun i s => ?_, fun c hroomy => ⟨⟨TimerBlock.inv_reset c, TimerBlock.threePerCycle_reset _⟩, ?_⟩⟩
  · cases i <;> rfl
  intro i s hinv h3
  by_cases hi : ∃ clk1, i = .tcycle clk1
  · obtain ⟨clk1, rfl⟩ := hi
    obtain ⟨hdiags, hthree⟩ := roomy_cycle hroomy hinv h3 clk1
    exact ⟨_, rfl, hdiags, hinv.cycle clk1, hthree⟩
  · have hi' : ∀ clk1, i ≠ .tcycle clk1 := not_exists.mp hi
    obtain ⟨t, ht⟩ := exec_completes i s
    exact ⟨t, (execWith_eq_exec hi' c s).trans ht, exec_diags hi' ht, exec_keeps_inv_threePerCycle hi' ht hinv h3⟩

/-- Settles O18: of the four things an instruction can do to the TimerBlock a byte write keeps both pipelines; a status
bit is set by a block cycle alone (O24). -/
theorem onlyCyclesAndTimerResetMovePipelines : Obligations.OnlyCyclesAndTimerResetMovePipelines := by
  intro i s hi hreset
  obtain ⟨t, ht, hstatus⟩ := statusBitsChangeOnlyAsStated i s
  have hpipes : t.timer.delayStatus = s.timer.delayStatus ∧ t.timer.delayIntrpt = s.timer.delayIntrpt := by
    obtain heq | ⟨r, k, b, _, heq⟩ | ⟨clk1, htcycle, _⟩ | ⟨htreset, _⟩ := exec_timer_cases ht
    · simp [heq]
    · simp [heq]
    · exact absurd htcycle (hi clk1)
    · exact absurd htreset hreset
  refine ⟨t, ht, hpipes.1, hpipes.2, exec_diags hi ht, fun k hk hset => ?_⟩
  by_contra hclear
  obtain ⟨⟨clk1, htcycle⟩, _⟩ := (hstatus k hk).1 (Bool.eq_false_iff.mpr hclear) hset
  exact hi clk1 htcycle

end Sys2Proof.Machine
end

section
/-! The count step and its event vector (R142-R146), and which timers make one in a cycle (R141). -/

namespace Sys2Proof.Machine

/-- The value a count step produces (R142, R143). -/
theorem countStep_nxt (up : Bool) (cnt rld : Word) :
    (countStep up cnt rld).nxt =
      if up = true then if cnt = 0xFFFFFFFF#32 then rld else cnt + 1
      else if cnt = 0x00000000#32 then rld else cnt - 1 := by
  unfold countStep
  split <;> split <;> rfl

/-- The step wraps from the last value of its direction (R142, R143). -/
theorem countStep_wrap (up : Bool) (cnt rld : Word) :
    (countStep up cnt rld).wrap = true ↔
      (up = true ∧ cnt = 0xFFFFFFFF#32) ∨ (up = false ∧ cnt = 0x00000000#32) := by
  cases up with
  | true | false =>
    simp only [countStep, if_true, Bool.false_eq_true, if_false, true_and, false_and, or_false, false_or, reduceCtorEq]
    split <;> simp_all

/-- The three bits of the event vector (R144, R145, R146). -/
theorem eventVector_getLsbD (ofe : Bool) (m0 m1 : Word) (r : CountResult) :
    (eventVector ofe m0 m1 r).getLsbD 0 = decide (r.nxt = m0) ∧
    (eventVector ofe m0 m1 r).getLsbD 1 = decide (r.nxt = m1) ∧
    (eventVector ofe m0 m1 r).getLsbD 2 = (r.wrap && ofe) := by
  have hbits : ∀ overflow match1 match0 : Bool,
      (BitVec.ofBool overflow ++ BitVec.ofBool match1 ++ BitVec.ofBool match0).getLsbD 0 = match0 ∧
      (BitVec.ofBool overflow ++ BitVec.ofBool match1 ++ BitVec.ofBool match0).getLsbD 1 = match1 ∧
      (BitVec.ofBool overflow ++ BitVec.ofBool match1 ++ BitVec.ofBool match0).getLsbD 2 = overflow := by decide
  exact hbits _ _ _

theorem TimerBlock.countsThisCycle_iff (t : TimerBlock) (clk1 : Bool) (n : TimerIx) :
    t.countsThisCycle clk1 n = true ↔
      t.ctrl.getLsbD (3 * n.val) = true ∧ (t.ctrl.getLsbD (3 * n.val + 1) = false ∨ clk1 = true) := by
  simp [TimerBlock.countsThisCycle, ctrlEn, ctrlClk]

/-- One timer's registers after a cycle (R140, R147). -/
theorem countedAll_get (t : TimerBlock) (clk1 : Bool) (n : TimerIx) :
    (t.countedAll clk1)[n] = { t.timers[n] with
      cnt := if t.countsThisCycle clk1 n = true then (t.countStepOf n).nxt else t.timers[n].cnt } := by
  simp only [TimerBlock.countedAll, Fin.getElem_fin, Vector.getElem_ofFn, Fin.eta]
  split <;> rfl

/-- One line after a cycle's ageing (R153). -/
theorem irqAfterAge_get (t : TimerBlock) (n : TimerIx) :
    t.irqAfterAge[n] =
      if ((t.delayIntrpt.filter fun e => e.rem = 1).any fun e => e.lines.getLsbD n.val) = true then
        unmaskedIn t.statusAfterAge t.mask n
      else t.irq[n] := by
  simp only [TimerBlock.irqAfterAge, Fin.getElem_fin, Vector.getElem_ofFn, Fin.eta]

/-- A line is named by an entry due in this cycle. -/
theorem due_line_iff (t : TimerBlock) (n : TimerIx) :
    ((t.delayIntrpt.filter fun e => e.rem = 1).any fun e => e.lines.getLsbD n.val) = true ↔
      ∃ e ∈ t.delayIntrpt, e.rem = 1 ∧ e.lines.getLsbD n.val = true := by
  simp

end Sys2Proof.Machine
end

section
/-! The statements of 41_timer_operation.md on one block cycle. -/

namespace Sys2Proof.Machine

/-- Settles O20: the bits of the event vector, with `countStep_wrap` for the overflow. -/
theorem eventVectorBits : Obligations.EventVectorBits := by
  intro t n
  obtain ⟨hmatch0, hmatch1, hoverflow⟩ :=
    eventVector_getLsbD (ctrlOfe t.ctrl n) t.timers[n].m0 t.timers[n].m1 (t.countStepOf n)
  refine ⟨?_, ?_, ?_⟩
  · rw [TimerBlock.eventsOf, hmatch0, decide_eq_true_iff]
  · rw [TimerBlock.eventsOf, hmatch1, decide_eq_true_iff]
  · rw [TimerBlock.eventsOf, hoverflow, Bool.and_eq_true, TimerBlock.countStepOf, countStep_wrap]
    exact and_comm

/-- Settles O19: the registers after a cycle, with the value of the count step written out. -/
theorem cycleCountsEachTimer : Obligations.CycleCountsEachTimer := by
  intro s clk1
  refine ⟨_, exec_tcycle clk1 s, fun n => ?_, cycle_ctrl .., cycle_mask .., cycle_revision .., rfl, rfl, rfl⟩
  rw [State.answer_timer, State.setTimer_timer, cycle_timers, countedAll_get, TimerBlock.countStepOf, countStep_nxt,
    if_congr (s.timer.countsThisCycle_iff clk1 n) rfl rfl]
  rfl

/-- Settles O21: `status` after the ageing, which nothing later in the cycle changes. -/
theorem cycleMergesDueStatusEntries : Obligations.CycleMergesDueStatusEntries := by
  intro s clk1
  refine ⟨_, exec_tcycle clk1 s, fun k _ => ?_⟩
  rw [State.answer_timer, State.setTimer_timer, cycle_status]
  exact statusAfterAge_getLsbD s.timer k

/-- Settles O22: the lines after the ageing, by whether a due entry names the line. -/
theorem cycleSettlesDueInterruptLines : Obligations.CycleSettlesDueInterruptLines := by
  intro s clk1
  refine ⟨_, exec_tcycle clk1 s, fun n => ?_⟩
  rw [State.answer_timer, State.setTimer_timer, cycle_irq, cycle_status, cycle_mask, irqAfterAge_get]
  refine ⟨fun hdue => ?_, fun hnone => if_neg fun hdue => ?_⟩
  · rw [if_pos ((due_line_iff s.timer n).mpr hdue)]
    exact unmaskedIn_iff _ _ n
  · obtain ⟨e, he, hrem, hline⟩ := (due_line_iff s.timer n).mp hdue
    exact Bool.false_ne_true ((hnone e he hrem).symm.trans hline)

/-- Settles O23: both pipelines and the diagnostics of a cycle, with what enqueueing up to the capacity leaves. -/
theorem cycleEnqueuesEventsUpToCapacity : Obligations.CycleEnqueuesEventsUpToCapacity :=
  fun s clk1 => ⟨_, exec_tcycle clk1 s, cycle_delayStatus .., cycle_delayIntrpt .., cycle_diags ..⟩

end Sys2Proof.Machine
end

section
/-! A counter by its distance to the wrapping step (R160): in either direction the distance names the value, a count step
takes one off it or starts a period anew, and the recomputed counter (R161) and the match distances are read off it. -/

namespace Sys2Proof.Machine

theorem wrapDistance_pos (up : Bool) (v : Word) : 1 ≤ wrapDistance up v := by
  have hv := v.isLt
  unfold wrapDistance
  split <;> omega

/-- Values of a counter at the same distance are the same. -/
theorem wrapDistance_inj {up : Bool} {v w : Word} : wrapDistance up v = wrapDistance up w ↔ v = w := by
  have hv := v.isLt
  have hw := w.isLt
  rw [BitVec.toNat_eq]
  unfold wrapDistance
  split <;> omega

/-! ## The count step -/

/-- The step wraps exactly where it is the last one left (R142, R143). -/
theorem countStep_wrap_iff (up : Bool) (cnt rld : Word) :
    (countStep up cnt rld).wrap = true ↔ wrapDistance up cnt = 1 := by
  have hcnt := cnt.isLt
  rw [countStep_wrap, BitVec.toNat_eq, BitVec.toNat_eq]
  cases up with
  | true =>
    simp only [wrapDistance, if_true, true_and, reduceCtorEq, false_and, or_false, BitVec.toNat_ofNat]
    omega
  | false =>
    simp only [wrapDistance, reduceCtorEq, if_false, true_and, false_and, false_or, BitVec.toNat_ofNat]
    omega

/-- A count step takes one off the distance, and from the last step starts a period (R142, R143, R148). -/
theorem wrapDistance_countStep (up : Bool) (cnt rld : Word) :
    wrapDistance up (countStep up cnt rld).nxt =
      if wrapDistance up cnt = 1 then wrapDistance up rld else wrapDistance up cnt - 1 := by
  have hcnt := cnt.isLt
  have hwrap := countStep_wrap_iff up cnt rld
  rw [countStep_wrap] at hwrap
  rw [countStep_nxt]
  cases up with
  | true =>
    by_cases hlast : cnt = 0xFFFFFFFF#32
    · simp [hlast, wrapDistance]
    · have hmore : wrapDistance true cnt ≠ 1 := fun h => hlast (by simpa using hwrap.mpr h)
      rw [if_pos rfl, if_neg hlast, if_neg hmore]
      simp only [wrapDistance, if_true] at hmore ⊢
      bv_omega
  | false =>
    by_cases hlast : cnt = 0x00000000#32
    · simp [hlast, wrapDistance]
    · have hmore : wrapDistance false cnt ≠ 1 := fun h => hlast (by simpa using hwrap.mpr h)
      rw [if_neg Bool.false_ne_true, if_neg hlast, if_neg hmore]
      simp only [wrapDistance, reduceCtorEq, if_false] at hmore ⊢
      bv_omega

/-! ## The recomputed counter -/

/-- The closed form is the count down of the distance, then the position in the period (R148, R161). -/
theorem wrapDistance_recomputeCounter (up : Bool) (cnt rld : Word) (k : Nat) :
    wrapDistance up (recomputeCounter up cnt rld k) =
      if k < wrapDistance up cnt then wrapDistance up cnt - k
      else wrapDistance up rld - (k - wrapDistance up cnt) % wrapDistance up rld := by
  have hcnt := cnt.isLt
  have hrld := rld.isLt
  cases up with
  | true =>
    simp only [wrapDistance, recomputeCounter, if_true]
    have hposition := Nat.mod_lt (k - (2 ^ 32 - cnt.toNat)) (show 2 ^ 32 - rld.toNat > 0 by omega)
    split
    · rw [BitVec.toNat_ofNat, Nat.mod_eq_of_lt (by omega)]
      omega
    · rw [BitVec.toNat_ofNat, Nat.mod_eq_of_lt (by omega)]
      omega
  | false =>
    simp only [wrapDistance, recomputeCounter, reduceCtorEq, if_false, Nat.lt_succ_iff, Nat.sub_sub]
    have hposition := Nat.mod_lt (k - (cnt.toNat + 1)) (show rld.toNat + 1 > 0 by omega)
    split
    · rw [BitVec.toNat_ofNat, Nat.mod_eq_of_lt (by omega)]
      omega
    · rw [BitVec.toNat_ofNat, Nat.mod_eq_of_lt (by omega)]
      omega

theorem recomputeCounter_zero (up : Bool) (cnt rld : Word) : recomputeCounter up cnt rld 0 = cnt := by
  rw [← wrapDistance_inj (up := up), wrapDistance_recomputeCounter, if_pos (Nat.succ_le_iff.mp (wrapDistance_pos up cnt)),
    Nat.sub_zero]

/-- A position in a period of `p` steps, one step on. -/
theorem succ_mod_eq_ite {p : Nat} (hp : 0 < p) (j : Nat) : (j + 1) % p = if j % p + 1 = p then 0 else j % p + 1 := by
  have hlt := Nat.mod_lt j hp
  rw [← Nat.mod_add_mod]
  split
  next heq => rw [heq, Nat.mod_self]
  next hne => exact Nat.mod_eq_of_lt (by omega)

/-- One step more is one count step of the value so far (R142, R143, R161). -/
theorem recomputeCounter_succ (up : Bool) (cnt rld : Word) (k : Nat) :
    recomputeCounter up cnt rld (k + 1) = (countStep up (recomputeCounter up cnt rld k) rld).nxt := by
  have hnow := wrapDistance_recomputeCounter up cnt rld k
  have hnext := wrapDistance_recomputeCounter up cnt rld (k + 1)
  have hpos := wrapDistance_pos up rld
  rw [← wrapDistance_inj (up := up), wrapDistance_countStep]
  generalize wrapDistance up cnt = d at *
  generalize wrapDistance up rld = p at *
  obtain hbefore | hwraps | hafter : k + 1 < d ∨ k + 1 = d ∨ d ≤ k := by omega
  · rw [if_pos (by omega)] at hnow hnext
    rw [hnext, hnow, if_neg (by omega)]
    omega
  · rw [if_pos (by omega)] at hnow
    rw [if_neg (by omega), hwraps, Nat.sub_self, Nat.zero_mod] at hnext
    rw [hwraps, hnext, hnow, if_pos (by omega), Nat.sub_zero]
  · have hlt := Nat.mod_lt (k - d) hpos
    rw [if_neg (by omega)] at hnow hnext
    rw [Nat.sub_add_comm hafter, succ_mod_eq_ite hpos] at hnext
    rw [hnext, hnow]
    split <;> split <;> omega

/-! ## The match distance -/

/-- A match value lies before the wrap, in the period after it, or nowhere (R160). -/
theorem matchDistance_eq (up : Bool) (cnt rld m : Word) :
    matchDistance up cnt rld m =
      if wrapDistance up m < wrapDistance up cnt then some (wrapDistance up cnt - wrapDistance up m)
      else if wrapDistance up m ≤ wrapDistance up rld then
        some (wrapDistance up cnt + (wrapDistance up rld - wrapDistance up m))
      else none := by
  have hcnt := cnt.isLt
  have hrld := rld.isLt
  have hm := m.isLt
  cases up with
  | true | false =>
    simp only [matchDistance, wrapDistance, reduceCtorEq, if_true, if_false]
    exact if_congr (by omega) (congrArg some (by omega)) (if_congr (by omega) (congrArg some (by omega)) rfl)

end Sys2Proof.Machine
end

section
/-! Block cycles one after another: what the machine's cycles do to the TimerBlock, and where its counters and the
entries of its pipelines are after them. -/

namespace Sys2Proof.Machine

/-- Block cycles always complete, and are those of the TimerBlock (R140, R230). -/
theorem cycles_timer (clks : List Bool) (s : State) :
    ∃ t, cycles clks s = .next t ∧ t.timer = TimerBlock.cycles Config.params clks s.timer := by
  induction clks generalizing s with
  | nil => exact ⟨s, rfl, rfl⟩
  | cons clk1 rest ih => exact ih ((s.setTimer (s.timer.cycle Config.params clk1).block).answer none
      (s.timer.cycle Config.params clk1).diags)

theorem TimerBlock.cycles_append (c : Config) (clks more : List Bool) (t : TimerBlock) :
    TimerBlock.cycles c (clks ++ more) t = TimerBlock.cycles c more (TimerBlock.cycles c clks t) := by
  induction clks generalizing t with
  | nil => rfl
  | cons clk1 rest ih => exact ih _

@[simp] theorem TimerBlock.cycles_ctrl (c : Config) (clks : List Bool) (t : TimerBlock) :
    (TimerBlock.cycles c clks t).ctrl = t.ctrl := by
  induction clks generalizing t with
  | nil => rfl
  | cons clk1 rest ih => exact (ih _).trans (cycle_ctrl t c clk1)

/-! ## Counters -/

/-- One more cycle is one more count step if the timer counts in it (R141). -/
theorem TimerBlock.stepsIn_append_singleton (t : TimerBlock) (clks : List Bool) (clk1 : Bool) (n : TimerIx) :
    t.stepsIn (clks ++ [clk1]) n = t.stepsIn clks n + if t.countsThisCycle clk1 n = true then 1 else 0 := by
  rw [TimerBlock.stepsIn, List.countP_append, List.countP_singleton]
  rfl

/-- After any cycles a timer has its reload and match values, and the counter recomputed from the count steps made in
them (R147, R161). -/
theorem cycles_timers_get (c : Config) (clks : List Bool) (t : TimerBlock) (n : TimerIx) :
    (TimerBlock.cycles c clks t).timers[n] = { t.timers[n] with
      cnt := recomputeCounter (ctrlUp t.ctrl n) t.timers[n].cnt t.timers[n].rld (t.stepsIn clks n) } := by
  induction clks using List.reverseRecOn with
  | nil => rw [TimerBlock.stepsIn, List.countP_nil, recomputeCounter_zero]; rfl
  | append_singleton clks clk1 ih =>
    have hcounts : (TimerBlock.cycles c clks t).countsThisCycle clk1 n = t.countsThisCycle clk1 n := by
      rw [TimerBlock.countsThisCycle, TimerBlock.cycles_ctrl]
      rfl
    rw [TimerBlock.cycles_append, TimerBlock.stepsIn_append_singleton]
    refine (congrArg (·[n]) (cycle_timers (TimerBlock.cycles c clks t) c clk1)).trans ?_
    rw [countedAll_get, TimerBlock.countStepOf, hcounts, TimerBlock.cycles_ctrl, ih]
    split
    · rw [recomputeCounter_succ]
    · rfl

theorem cycles_cnt (c : Config) (clks : List Bool) (t : TimerBlock) (n : TimerIx) :
    (TimerBlock.cycles c clks t).timers[n].cnt =
      recomputeCounter (ctrlUp t.ctrl n) t.timers[n].cnt t.timers[n].rld (t.stepsIn clks n) :=
  congrArg TimerRegs.cnt (cycles_timers_get c clks t n)

/-- The count step a timer would make after any cycles. -/
theorem countStepOf_cycles (c : Config) (clks : List Bool) (t : TimerBlock) (n : TimerIx) :
    (TimerBlock.cycles c clks t).countStepOf n =
      countStep (ctrlUp t.ctrl n)
        (recomputeCounter (ctrlUp t.ctrl n) t.timers[n].cnt t.timers[n].rld (t.stepsIn clks n)) t.timers[n].rld := by
  rw [TimerBlock.countStepOf, TimerBlock.cycles_ctrl, cycles_timers_get]

/-! ## Boundaries -/

/-- While the wrap is still to come, the next step is the wrap exactly when its number is the distance (R160). -/
theorem wrap_iff_of_lt {up : Bool} {cnt rld : Word} {k : Nat} (hk : k < wrapDistance up cnt) :
    (countStep up (recomputeCounter up cnt rld k) rld).wrap = true ↔ k + 1 = wrapDistance up cnt := by
  rw [countStep_wrap_iff, wrapDistance_recomputeCounter, if_pos hk]
  omega

/-- While neither the wrap nor the match is past, the next step produces the match value exactly when its number is the
distance (R160). -/
theorem match_iff_of_le {up : Bool} {cnt rld m : Word} {k : Nat} (hk : k < wrapDistance up cnt)
    (hmatch : ∀ d, matchDistance up cnt rld m = some d → k + 1 ≤ d) :
    (countStep up (recomputeCounter up cnt rld k) rld).nxt = m ↔ matchDistance up cnt rld m = some (k + 1) := by
  have hm := wrapDistance_pos up m
  rw [← wrapDistance_inj (up := up), wrapDistance_countStep, wrapDistance_recomputeCounter, if_pos hk]
  rw [matchDistance_eq] at hmatch ⊢
  generalize wrapDistance up cnt = d at *
  generalize wrapDistance up rld = p at *
  generalize wrapDistance up m = e at *
  by_cases hbefore : e < d
  · rw [if_pos hbefore] at hmatch ⊢
    have := hmatch _ rfl
    rw [if_neg (by omega), Option.some.injEq]
    omega
  · rw [if_neg hbefore] at hmatch ⊢
    by_cases hafter : e ≤ p
    · rw [if_pos hafter, Option.some.injEq]
      split <;> omega
    · rw [if_neg hafter]
      simp only [reduceCtorEq, iff_false]
      split <;> omega

theorem le_nearer_iff {a d : Nat} {o : Option Nat} : a ≤ nearer d o ↔ a ≤ d ∧ ∀ e, o = some e → a ≤ e := by
  cases o with
  | none => simp [nearer]
  | some e => simp [nearer]

/-- The nearer of two distances that are not past is the next step exactly when one of them is. -/
theorem eq_nearer_iff {a d : Nat} {o : Option Nat} (h : a ≤ nearer d o) : a = nearer d o ↔ a = d ∨ o = some a := by
  cases o with
  | none => simp [nearer]
  | some e =>
    simp only [nearer, Option.some.injEq] at h ⊢
    omega

/-- A match value at infinite distance stays there, and no count step produces it (R149, R160). -/
theorem matchDistance_countStep_of_none {up : Bool} {cnt rld m : Word} (h : matchDistance up cnt rld m = none) :
    matchDistance up (countStep up cnt rld).nxt rld m = none ∧ (countStep up cnt rld).nxt ≠ m := by
  have hpos := wrapDistance_pos up cnt
  rw [matchDistance_eq] at h ⊢
  rw [ne_eq, ← wrapDistance_inj (up := up), wrapDistance_countStep]
  split at h
  next => cases h
  split at h
  next => cases h
  next hbefore hafter =>
    refine ⟨?_, ?_⟩
    · rw [if_neg (by split <;> omega), if_neg hafter]
    · split <;> omega

theorem matchDistance_recomputeCounter_of_none {up : Bool} {cnt rld m : Word}
    (h : matchDistance up cnt rld m = none) (k : Nat) :
    matchDistance up (recomputeCounter up cnt rld k) rld m = none := by
  induction k with
  | zero => rwa [recomputeCounter_zero]
  | succ k ih =>
    rw [recomputeCounter_succ]
    exact (matchDistance_countStep_of_none ih).1

/-! ## Entries of a pipeline -/

/-- An entry not due in a cycle is one cycle nearer after it. -/
theorem aged_mem_cycle {c : Config} {t : TimerBlock} {e : StatusEntry} (he : e ∈ t.delayStatus) (hne : e.rem ≠ 1)
    (clk1 : Bool) : e.age ∈ (t.cycle c clk1).block.delayStatus := by
  rw [cycle_delayStatus]
  exact List.mem_append_left _ (List.mem_map_of_mem (List.mem_filter.mpr ⟨he, decide_eq_true hne⟩))

/-- An entry's bits are in `status` after as many cycles as it had left (R152, R158). -/
theorem status_of_due_entry (c : Config) {e : StatusEntry} {clks : List Bool} {t : TimerBlock}
    (he : e ∈ t.delayStatus) (hpos : 1 ≤ e.rem) (hlength : (clks.length : Int) = e.rem) {k : Nat}
    (hk : e.bits.getLsbD k = true) : (TimerBlock.cycles c clks t).status.getLsbD k = true := by
  induction clks generalizing t e with
  | nil =>
    simp only [List.length_nil] at hlength
    omega
  | cons clk1 rest ih =>
    simp only [List.length_cons] at hlength
    by_cases hdue : e.rem = 1
    · obtain rfl : rest = [] := List.eq_nil_of_length_eq_zero (by omega)
      refine (congrArg (·.getLsbD k) (cycle_status t c clk1)).trans ?_
      exact (statusAfterAge_getLsbD t k).mpr (.inr ⟨e, he, hdue, hk⟩)
    · have hrem := e.age_rem
      exact ih (aged_mem_cycle he hdue clk1) (by omega) (by omega) hk

/-- Where every entry has more than `k + 1` cycles left, after a cycle every entry has more than `k`, the new ones too
as long as the delay is that long (R150, R154, R155). -/
theorem later_after_cycle {ε : Type} {rem : ε → Int} {age : ε → ε} (hage : ∀ e, rem (age e) = rem e - 1) {l : List ε}
    {cap delay k : Nat} {f : TimerIx × BitVec 3 → ε} (hf : ∀ x, rem (f x) = delay)
    (hl : ∀ e ∈ l, ((k + 1 : Nat) : Int) < rem e) (hk : k + 1 ≤ delay) (new : List (TimerIx × BitVec 3)) :
    ∀ e ∈ pushed cap ((l.filter fun e => rem e ≠ 1).map age) f new, (k : Int) < rem e := by
  intro e' he'
  obtain hkept | hnew := List.mem_append.mp he'
  · obtain ⟨e, he, rfl⟩ := List.mem_map.mp hkept
    have := hl e (List.mem_of_mem_filter he)
    rw [hage]
    omega
  · obtain ⟨x, _, rfl⟩ := List.mem_map.mp hnew
    rw [hf]
    omega

/-- With no entry due in a cycle, `status` is kept (R152). -/
theorem statusAfterAge_of_none_due {t : TimerBlock} (h : ∀ e ∈ t.delayStatus, e.rem ≠ 1) :
    t.statusAfterAge = t.status := by
  rw [TimerBlock.statusAfterAge, List.filter_eq_nil_iff.mpr fun e he => by simpa using h e he]
  rfl

/-- With no entry due in a cycle, every line is kept (R153). -/
theorem irqAfterAge_of_none_due {t : TimerBlock} (h : ∀ e ∈ t.delayIntrpt, e.rem ≠ 1) : t.irqAfterAge = t.irq := by
  ext n hn
  refine (irqAfterAge_get t ⟨n, hn⟩).trans (if_neg fun hdue => ?_)
  obtain ⟨e, he, hrem, _⟩ := (due_line_iff t ⟨n, hn⟩).mp hdue
  exact h e he hrem

/-- A block's `status` through cycles in which no entry is due yet (R158). -/
theorem status_cycles_of_none_due (c : Config) {clks : List Bool} {t : TimerBlock}
    (h : ∀ e ∈ t.delayStatus, (clks.length : Int) < e.rem) (hdelay : clks.length ≤ c.statusDelay) :
    (TimerBlock.cycles c clks t).status = t.status := by
  induction clks generalizing t with
  | nil => rfl
  | cons clk1 rest ih =>
    simp only [List.length_cons] at h hdelay
    have hlater : ∀ e ∈ (t.cycle c clk1).block.delayStatus, (rest.length : Int) < e.rem := by
      rw [cycle_delayStatus]
      exact later_after_cycle StatusEntry.age_rem (fun _ => rfl) h hdelay _
    refine (ih hlater (by omega)).trans ((cycle_status t c clk1).trans (statusAfterAge_of_none_due fun e he => ?_))
    have := h e he
    omega

/-- A block's lines through cycles in which no interrupt entry is due yet (R158). -/
theorem irq_cycles_of_none_due (c : Config) {clks : List Bool} {t : TimerBlock}
    (h : ∀ e ∈ t.delayIntrpt, (clks.length : Int) < e.rem) (hdelay : clks.length ≤ c.intrptDelay) :
    (TimerBlock.cycles c clks t).irq = t.irq := by
  induction clks generalizing t with
  | nil => rfl
  | cons clk1 rest ih =>
    simp only [List.length_cons] at h hdelay
    have hlater : ∀ e ∈ (t.cycle c clk1).block.delayIntrpt, (rest.length : Int) < e.rem := by
      rw [cycle_delayIntrpt]
      exact later_after_cycle IntrptEntry.age_rem (fun _ => rfl) h hdelay _
    refine (ih hlater (by omega)).trans ((cycle_irq t c clk1).trans (irqAfterAge_of_none_due fun e he => ?_))
    have := h e he
    omega

end Sys2Proof.Machine
end

section
/-! The statements of 41_timer_operation.md on several block cycles. -/

namespace Sys2Proof.Machine

/-- From the reload value the wrapping step is the last of the period, and brings it back (R148). -/
theorem recomputeCounter_period (up : Bool) (r : Word) : recomputeCounter up r r (wrapDistance up r) = r := by
  rw [← wrapDistance_inj (up := up), wrapDistance_recomputeCounter, if_neg (lt_irrefl _), Nat.sub_self, Nat.zero_mod,
    Nat.sub_zero]

/-- Settles O29: the distance to the wrap goes down with the count steps, and the period is the reload value's
distance. -/
theorem counterPeriod : Obligations.CounterPeriod := by
  intro s n clks R hcnt hrld
  obtain ⟨t, ht, htimer⟩ := cycles_timer clks s
  have hR := R.isLt
  refine ⟨t, ht, ?_⟩
  rw [htimer, cycles_cnt, countStepOf_cycles, hcnt, hrld]
  generalize s.timer.stepsIn clks n = k
  refine ⟨fun hdown hk => ?_, fun hdown hk => ?_, fun hup hk => ?_, fun hup hk => ?_⟩
  · have hbefore : k < wrapDistance false R := Nat.lt_succ_of_le hk
    have hleft := wrapDistance_recomputeCounter false R R k
    rw [if_pos hbefore] at hleft
    rw [hdown, wrap_iff_of_lt hbefore]
    simp only [wrapDistance, reduceCtorEq, if_false] at hleft
    exact ⟨by omega, Nat.succ_inj⟩
  · rw [hdown, hk]
    exact recomputeCounter_period false R
  · have hbefore : k < wrapDistance true R := hk
    have hleft := wrapDistance_recomputeCounter true R R k
    rw [if_pos hbefore] at hleft
    rw [hup, wrap_iff_of_lt hbefore]
    simp only [wrapDistance, if_true] at hleft
    exact ⟨by omega, Iff.rfl⟩
  · rw [hup, hk]
    exact recomputeCounter_period true R

/-- Settles O30: by induction on the cycles the counter is recomputed from its count steps. -/
theorem recomputedCounterEqualsCycleByCycle : Obligations.RecomputedCounterEqualsCycleByCycle := by
  intro s n clks
  obtain ⟨t, ht, htimer⟩ := cycles_timer clks s
  refine ⟨t, ht, ?_⟩
  rw [htimer, cycles_cnt]

/-- Settles O31: the next step is at one of the three distances exactly when it is at the nearest, for none is past. -/
theorem wakeTimeIsFirstBoundary : Obligations.WakeTimeIsFirstBoundary := by
  intro s n clks d hwake hbefore
  obtain ⟨t, ht, htimer⟩ := cycles_timer clks s
  refine ⟨t, ht, ?_⟩
  rw [htimer, countStepOf_cycles]
  simp only [TimerBlock.wakeTime] at hwake
  split at hwake
  next =>
    obtain rfl := Option.some.inj hwake
    have hnext := Nat.succ_le_of_lt hbefore
    obtain ⟨hnearer, hmatch1⟩ := le_nearer_iff.mp hnext
    obtain ⟨hwrap, hmatch0⟩ := le_nearer_iff.mp hnearer
    rw [wrap_iff_of_lt hwrap, match_iff_of_le hwrap hmatch0, match_iff_of_le hwrap hmatch1, eq_nearer_iff hnext,
      eq_nearer_iff hnearer, or_assoc]
  next => cases hwake

/-- Settles O32: infinite distance is kept by every count step. -/
theorem unreachableMatchNeverFires : Obligations.UnreachableMatchNeverFires := by
  intro s n m clks hnone
  obtain ⟨t, ht, htimer⟩ := cycles_timer clks s
  refine ⟨t, ht, ?_⟩
  rw [htimer, countStepOf_cycles]
  exact (matchDistance_countStep_of_none (matchDistance_recomputeCounter_of_none hnone _)).2

/-- Settles O33: the entry comes one cycle nearer with each cycle, until the one it matures in. -/
theorem dueStatusEntryBecomesVisible : Obligations.DueStatusEntryBecomesVisible := by
  intro s e clks he hpos hlength
  obtain ⟨t, ht, htimer⟩ := cycles_timer clks s
  exact ⟨t, ht, fun _ _ hk => htimer ▸ status_of_due_entry Config.params he hpos hlength hk⟩

/-- Settles O34: old entries stay ahead of the cycles left, and new ones have the whole delay left. -/
theorem statusWaitsForDelay : Obligations.StatusWaitsForDelay := by
  intro s clks hlater hdelay
  obtain ⟨t, ht, htimer⟩ := cycles_timer clks s
  exact ⟨t, ht, htimer ▸ status_cycles_of_none_due Config.params hlater hdelay⟩

/-- Settles O35: as for `status`, by the interrupt pipeline and its delay. -/
theorem interruptLinesWaitForDelay : Obligations.InterruptLinesWaitForDelay := by
  intro s clks hlater hdelay
  obtain ⟨t, ht, htimer⟩ := cycles_timer clks s
  exact ⟨t, ht, htimer ▸ irq_cycles_of_none_due Config.params hlater hdelay⟩

end Sys2Proof.Machine
end

section
/-! The words of the CRYPTO window: the offset map of R86 against the word the gated accesses read (R181), and what a
byte write of the message block does to them. -/

namespace Sys2Proof.Machine

/-! ## The ranges of R86 -/

@[simp] theorem indexOf_toNat (off : CryptoOffset) : (indexOf off).toNat = off.toNat / 4 := by
  have hoff : off.toNat < 256 := off.isLt
  simp only [indexOf, BitVec.extractLsb'_toNat, Nat.shiftRight_eq_div_pow, Config.cryptoOffBits]
  omega

theorem indexOf_eq_lastIdx_iff (off : CryptoOffset) :
    indexOf off = Config.lastIdx ↔ 0x0C ≤ off.toNat ∧ off.toNat ≤ 0x0F := by
  have hlast : Config.lastIdx.toNat = 3 := rfl
  rw [← BitVec.toNat_inj, indexOf_toNat]
  omega

theorem indexInBlock_indexOf_iff (off : CryptoOffset) :
    indexInBlock (indexOf off) = true ↔ 0x10 ≤ off.toNat ∧ off.toNat ≤ 0x4F := by
  have hblock : Config.blockIdx.toNat = 4 := rfl
  rw [indexInBlock, decide_eq_true_iff, indexOf_toNat]
  omega

theorem indexInState_indexOf_iff (off : CryptoOffset) :
    indexInState (indexOf off) = true ↔ 0x60 ≤ off.toNat ∧ off.toNat ≤ 0x7F := by
  have hstate : Config.stateIdx.toNat = 24 := rfl
  rw [indexInState, decide_eq_true_iff, indexOf_toNat]
  omega

theorem blockWordOf_toNat : ∀ idx : WordIndex, indexInBlock idx = true → (blockWordOf idx).toNat = idx.toNat - 4 := by
  decide

theorem stateWordOf_toNat : ∀ idx : WordIndex, indexInState idx = true → (stateWordOf idx).toNat = idx.toNat - 24 := by
  decide

theorem ne_lastIdx_of_indexInBlock : ∀ idx : WordIndex, indexInBlock idx = true → idx ≠ Config.lastIdx := by
  decide

/-! ## Reading the window -/

/-- The offset map of R86 shows the word a read of the offset's index sees (R181). -/
theorem CryptoBlock.windowWord_eq (c : CryptoBlock) (off : CryptoOffset) : c.windowWord off = c.wordAt (indexOf off) := by
  simp only [CryptoBlock.windowWord, CryptoBlock.wordAt, indexOf_eq_lastIdx_iff, indexInBlock_indexOf_iff,
    indexInState_indexOf_iff]
  split
  next => rfl
  split
  next hblock =>
    have hword : (blockWordOf (indexOf off)).toNat = (off.toNat - 0x10) / 4 := by
      rw [blockWordOf_toNat _ ((indexInBlock_indexOf_iff off).mpr hblock), indexOf_toNat]
      omega
    simp [hword]
  split
  next hstate =>
    have hword : (stateWordOf (indexOf off)).toNat = (off.toNat - 0x60) / 4 := by
      rw [stateWordOf_toNat _ ((indexInState_indexOf_iff off).mpr hstate), indexOf_toNat]
      omega
    simp [hword]
  next => rfl

theorem CryptoBlock.windowByte_eq (c : CryptoBlock) (off : CryptoOffset) :
    c.windowByte off = byteOf (c.wordAt (indexOf off)) (laneOf off) := by
  rw [CryptoBlock.windowByte, c.windowWord_eq, byteOf, laneOf_toNat]

/-- Byte lane `k` of a word index, as the host sees it (R85). -/
theorem CryptoBlock.windowByte_wordOffset (c : CryptoBlock) (idx : WordIndex) (k : Lane) :
    c.windowByte (wordOffset idx k) = byteOf (c.wordAt idx) k := by
  rw [c.windowByte_eq, indexOf_wordOffset, laneOf_wordOffset]

/-! ## Writing the message block -/

theorem CryptoBlock.wordAt_block (c : CryptoBlock) {idx : WordIndex} (h : indexInBlock idx = true) :
    c.wordAt idx = c.block[(blockWordOf idx).toFin] := by
  rw [CryptoBlock.wordAt, if_neg (ne_lastIdx_of_indexInBlock idx h), if_pos h]

/-- A byte write of a message-block word replaces that lane of the word at its index (R195). -/
theorem CryptoBlock.wordAt_writeBlock_self (c : CryptoBlock) {idx : WordIndex} (h : indexInBlock idx = true) (k : Lane)
    (b : Byte) : (c.writeBlock (blockWordOf idx) k b).wordAt idx = setByte (c.wordAt idx) k b := by
  rw [CryptoBlock.wordAt_block _ h, c.wordAt_block h, CryptoBlock.writeBlock_block]
  exact Vector.getElem_set_self _

/-- It keeps the word at every other index. -/
theorem CryptoBlock.wordAt_writeBlock_ne (c : CryptoBlock) {idx jdx : WordIndex} (h : indexInBlock idx = true)
    (hne : jdx ≠ idx) (k : Lane) (b : Byte) : (c.writeBlock (blockWordOf idx) k b).wordAt jdx = c.wordAt jdx := by
  by_cases hj : indexInBlock jdx = true
  · have hword : (blockWordOf idx).toNat ≠ (blockWordOf jdx).toNat := by
      intro heq
      rw [← blockIndex_blockWordOf idx h, BitVec.eq_of_toNat_eq heq, blockIndex_blockWordOf jdx hj] at hne
      exact hne rfl
    rw [CryptoBlock.wordAt_block _ hj, c.wordAt_block hj, CryptoBlock.writeBlock_block]
    exact Vector.getElem_set_ne _ _ hword
  · simp only [CryptoBlock.wordAt, if_neg hj, CryptoBlock.writeBlock_hash]

/-- The host's view: the one byte of the window is replaced (R195). -/
theorem CryptoBlock.windowByte_writeBlock (c : CryptoBlock) {off : CryptoOffset} (h : indexInBlock (indexOf off) = true)
    (b : Byte) (a : CryptoOffset) :
    (c.writeBlock (blockWordOf (indexOf off)) (laneOf off) b).windowByte a = if a = off then b else c.windowByte a := by
  rw [CryptoBlock.windowByte_eq, c.windowByte_eq]
  by_cases hidx : indexOf a = indexOf off
  · rw [hidx, c.wordAt_writeBlock_self h]
    by_cases ha : a = off
    · rw [if_pos ha, ha, byteOf_setByte_self]
    · have hlane : laneOf a ≠ laneOf off := fun heq =>
        ha (by rw [← wordOffset_fields a, hidx, heq, wordOffset_fields])
      rw [if_neg ha, byteOf_setByte_ne _ _ hlane]
  · have ha : a ≠ off := fun heq => hidx (by rw [heq])
    rw [c.wordAt_writeBlock_ne h hidx, if_neg ha]

end Sys2Proof.Machine
end

section
/-! The step on a CRYPTO access: the gate (R182, R183, R188) before the word index of the offset. -/

namespace Sys2Proof.Machine

/-- An unlocked read records the index and answers its word (R182). -/
theorem cryptoRead_unlocked {locks : Locks} (h : locks.opAllowed = true) (idx : WordIndex) (k : Lane) (s : State) :
    cryptoRead (.normal locks) idx k s =
      .next ((s.setCrypto (s.crypto.record idx)).answer (some (byteOf (s.crypto.wordAt idx) k)) []) :=
  if_pos h

/-- A locked read replays the word `last` names (R183). -/
theorem cryptoRead_locked {locks : Locks} (h : locks.opAllowed = false) (idx : WordIndex) (k : Lane) (s : State) :
    cryptoRead (.normal locks) idx k s = .next (s.answer (some (byteOf (s.crypto.wordAt s.crypto.last) k)) []) :=
  if_neg (by simp [h])

/-- A protected write records the index alone (R188). -/
theorem cryptoWrite_protected {locks : Locks} (h : locks.writeProtected = true) (idx : WordIndex)
    (f : CryptoBlock → CryptoBlock) (s : State) :
    cryptoWrite (.normal locks) idx f s = .next ((s.setCrypto (s.crypto.record idx)).answer none []) :=
  if_pos h

/-- The step on a CRYPTO read. -/
theorem step_cryptoRead {s : State} {p : Bool} {off : CryptoOffset} {b : Byte} {locks : Locks} {rest : List Transaction}
    (hpending : s.pending = caTx p false off b locks :: rest) :
    step s = cryptoRead (if p then .inspect else .normal locks) (indexOf off) (laneOf off) (s.setPending rest) :=
  (step_of_decode_ok hpending (decode_caTx p false off b locks)).trans (exec_cryptoReadAt _ off _)

/-- The step on a locked read, in the host's view of the word `last` names (R183). -/
theorem step_lockedRead {s : State} {off : CryptoOffset} {b : Byte} {locks : Locks} {rest : List Transaction}
    (hpending : s.pending = caTx false false off b locks :: rest) (hlocked : locks.opAllowed = false) :
    step s = .next
      ((s.setPending rest).answer (some (s.crypto.windowByte (wordOffset s.crypto.last (laneOf off)))) []) := by
  rw [CryptoBlock.windowByte_wordOffset]
  exact (step_cryptoRead hpending).trans (cryptoRead_locked hlocked ..)

/-- The step on a CRYPTO write whose instruction is the gated write with data effect `f`, when the gate is open: `last`
takes the index on a normal write only (R188, R189). -/
theorem step_cryptoWrite_open {s : State} {p : Bool} {off : CryptoOffset} {b : Byte} {locks : Locks}
    {rest : List Transaction} {f : CryptoBlock → CryptoBlock}
    (hpending : s.pending = caTx p true off b locks :: rest)
    (heffect : ∀ (a : Access) (s : State), exec (cryptoWriteAt a off b) s = cryptoWrite a (indexOf off) f s)
    (hopen : p = true ∨ locks.writeProtected = false) :
    step s = .next (((s.setPending rest).setCrypto
      (f { s.crypto with last := if p = true then s.crypto.last else indexOf off })).answer none []) := by
  rw [step_of_decode_ok hpending (decode_caTx p true off b locks)]
  refine (heffect _ _).trans ?_
  cases p with
  | true => rfl
  | false => exact cryptoWrite_unlocked (hopen.resolve_left nofun) ..

/-- A write of a message-block offset writes that byte of the block (R195). -/
theorem exec_cryptoWriteAt_block {off : CryptoOffset} (h : indexInBlock (indexOf off) = true) (b : Byte) (a : Access)
    (s : State) : exec (cryptoWriteAt a off b) s =
      cryptoWrite a (indexOf off) (fun c => c.writeBlock (blockWordOf (indexOf off)) (laneOf off) b) s := by
  have hoff : wordOffset (blockIndex (blockWordOf (indexOf off))) (laneOf off) = off := by
    rw [blockIndex_blockWordOf _ h, wordOffset_fields]
  rw [← congrArg (cryptoWriteAt a · b) hoff, cryptoWriteAt_blockIndex, exec_blockWriteAt, blockIndex_blockWordOf _ h]

/-- A write of any offset but the control byte and the message block has no data effect (R196-R198). -/
theorem exec_cryptoWriteAt_dataless {off : CryptoOffset} (hctrl : off ≠ Config.ctrlOff)
    (hblock : ¬ indexInBlock (indexOf off) = true) (b : Byte) (a : Access) (s : State) :
    exec (cryptoWriteAt a off b) s = cryptoWrite a (indexOf off) id s := by
  simp only [cryptoWriteAt, if_neg hctrl, if_neg hblock]
  split
  next hlast => rw [hlast]; rfl
  split
  next hstate => exact congrArg (cryptoWrite a · id s) (stateIndex_stateWordOf _ hstate)
  next => rfl

end Sys2Proof.Machine
end

section
/-! The statements of 42_crypto.md on accesses. -/

namespace Sys2Proof.Machine

/-- Settles O36: the gate is open, and the word at the offset's index is the one the map of R86 shows. -/
theorem unlockedCryptoReadAnswersMappedByte : Obligations.UnlockedCryptoReadAnswersMappedByte := by
  intro s off b locks rest hpending hallowed
  rw [CryptoBlock.windowByte_eq]
  exact (step_cryptoRead hpending).trans (cryptoRead_unlocked hallowed ..)

/-- Settles O37: the gate is shut, and `last ++ lane` is the offset of that lane of the word `last` names. -/
theorem lockedCryptoReadReplaysLast : Obligations.LockedCryptoReadReplaysLast := by
  intro s off b locks rest hpending hlocked
  exact step_lockedRead hpending hlocked

/-- Settles O38: a peek passes no gate. -/
theorem cryptoPeekBypassesLock : Obligations.CryptoPeekBypassesLock := by
  intro s off b locks rest hpending
  rw [CryptoBlock.windowByte_eq]
  exact (step_cryptoRead hpending).trans (cryptoRead_inspect ..)

/-- Settles O39: whatever the data effect of the offset, the shut gate keeps it back and records the index. -/
theorem lockedCryptoWriteIsDropped : Obligations.LockedCryptoWriteIsDropped := by
  intro s off b locks rest hpending hprotected
  obtain ⟨f, _, heffect⟩ := exec_cryptoWriteAt (.normal locks) off b (s.setPending rest)
  rw [step_of_decode_ok hpending (decode_caTx false true off b locks)]
  exact heffect.trans (cryptoWrite_protected hprotected ..)

/-- Settles O40: the data effect is the byte write of the offset's block word, and the recorded index is no part of
the window. -/
theorem blockWriteReplacesOneByte : Obligations.BlockWriteReplacesOneByte := by
  intro s p off b locks rest hpending hlo hhi hopen
  have hblock := (indexInBlock_indexOf_iff off).mpr ⟨hlo, hhi⟩
  exact ⟨_, step_cryptoWrite_open hpending (exec_cryptoWriteAt_block hblock b) hopen,
    CryptoBlock.windowByte_writeBlock _ hblock b, rfl, rfl, rfl, rfl, rfl⟩

/-- Settles O41: the offset's data effect is none, so only the gate's record is left. -/
theorem otherCryptoWritesOnlyRecord : Obligations.OtherCryptoWritesOnlyRecord := by
  intro s p off b locks rest hpending hctrl hoff hopen
  have hctrl' : off ≠ Config.ctrlOff := fun heq => hctrl (by rw [heq]; rfl)
  have hblock : ¬ indexInBlock (indexOf off) = true := by
    rw [indexInBlock_indexOf_iff]
    omega
  exact step_cryptoWrite_open hpending (exec_cryptoWriteAt_dataless hctrl' hblock b) hopen

/-- Settles O45: a locked read's answer is a byte of the word `last` names, picked by the lane alone. -/
theorem lockedReadsRevealOnlyTheLastWord : Obligations.LockedReadsRevealOnlyTheLastWord := by
  intro s s' off off' b b' locks locks' rest rest' hpending hpending' hlocked hlocked' hlane hword
  have hreplayed : s.crypto.wordAt s.crypto.last = s'.crypto.wordAt s'.crypto.last := by
    have hindex (idx : WordIndex) : indexOf (idx ++ 0#2) = idx := indexOf_wordOffset idx 0#2
    simpa only [CryptoBlock.windowWord_eq, hindex] using hword
  have hsame : laneOf off = laneOf off' := hlane
  refine ⟨_, _, step_lockedRead hpending hlocked, step_lockedRead hpending' hlocked', ?_⟩
  simp only [State.answer_reply, CryptoBlock.windowByte_wordOffset, hreplayed, hsame]

end Sys2Proof.Machine
end

section
/-! The compression function (R200-R206): the functions bit by bit, the message schedule and the rounds. -/

namespace Sys2Proof.Machine

/-! ## Rotation -/

/-- Bit `i` of a rotation is bit `i + k` modulo 32: past the top it comes from the left shift (R9). -/
theorem rotr_getLsbD (x : Word) {k i : Nat} (hk : k < 32) (hi : i < 32) :
    (rotr x k).getLsbD i = x.getLsbD ((i + k) % 32) := by
  simp only [rotr, BitVec.getLsbD_or, BitVec.getLsbD_ushiftRight, BitVec.getLsbD_shiftLeft, hi, decide_true,
    Bool.true_and]
  by_cases hlow : i + k < 32
  · have hleft : i < 32 - k := by omega
    simp [Nat.mod_eq_of_lt hlow, hleft, Nat.add_comm k i]
  · have hright : x.getLsbD (k + i) = false := BitVec.getLsbD_of_ge _ _ (by omega)
    have hleft : ¬ i < 32 - k := by omega
    have hmod : (i + k) % 32 = i - (32 - k) := by omega
    simp [hright, hleft, hmod]

/-- A shift has 0 above the top bit (R200). -/
theorem ushiftRight_getLsbD_of_word (x : Word) (k i : Nat) :
    (x >>> k).getLsbD i = (decide (i + k < 32) && x.getLsbD (i + k)) := by
  rw [BitVec.getLsbD_ushiftRight, Nat.add_comm k i]
  by_cases hlow : i + k < 32
  · simp [hlow]
  · rw [BitVec.getLsbD_of_ge x _ (by omega), Bool.and_false]

/-! ## The message schedule -/

@[simp] theorem shaExtend_length (k : Nat) (w : List Word) : (shaExtend k w).length = k + w.length := by
  induction k generalizing w with
  | zero => simp [shaExtend]
  | succ k ih =>
    rw [shaExtend, ih, List.length_cons]
    omega

/-- The words already there stay below the new ones (latest first). -/
theorem shaExtend_drop (k : Nat) (w : List Word) : (shaExtend k w).drop k = w := by
  induction k generalizing w with
  | zero => rfl
  | succ k ih => rw [shaExtend, ← List.drop_drop, ih, List.drop_one, List.tail_cons]

/-- Every new word is the next one after those below it (R203). -/
theorem shaExtend_drop_eq_cons {k i : Nat} (hi : i < k) (w : List Word) :
    (shaExtend k w).drop i = shaNextWord ((shaExtend k w).drop (i + 1)) :: (shaExtend k w).drop (i + 1) := by
  induction k generalizing w with
  | zero => exact absurd hi (Nat.not_lt_zero i)
  | succ k ih =>
    rw [shaExtend]
    obtain hlt | rfl := Nat.lt_succ_iff_lt_or_eq.mp hi
    · exact ih hlt _
    · rw [← List.drop_drop, shaExtend_drop, List.drop_one, List.tail_cons]

/-- The words of a block's schedule in the order they are made, latest first. -/
def shaLatestFirst (block : Vector Word 16) : List Word := shaExtend 48 block.toList.reverse

@[simp] theorem shaLatestFirst_length (block : Vector Word 16) : (shaLatestFirst block).length = 64 := by
  simp [shaLatestFirst]

theorem shaSchedule_eq_reverse (block : Vector Word 16) : shaSchedule block = (shaLatestFirst block).reverse := rfl

@[simp] theorem shaSchedule_length (block : Vector Word 16) : (shaSchedule block).length = 64 := by
  simp [shaSchedule_eq_reverse]

theorem shaSchedule_getElem? (block : Vector Word 16) {t : Nat} (ht : t < 64) :
    (shaSchedule block)[t]? = (shaLatestFirst block)[63 - t]? := by
  rw [shaSchedule_eq_reverse, List.getElem?_reverse (by simpa using ht), shaLatestFirst_length]

/-- The `j + 1`-th word before `W[t]` stands at position `j` of the words made before it. -/
theorem shaLatestFirst_drop_getD (block : Vector Word 16) {t j : Nat} (hj : j < t) (ht : t < 64) :
    ((shaLatestFirst block).drop (63 - t + 1)).getD j 0 = (shaSchedule block).getD (t - (j + 1)) 0 := by
  have hposition : 63 - t + 1 + j = 63 - (t - (j + 1)) := by omega
  rw [List.getD_eq_getElem?_getD, List.getElem?_drop, hposition, List.getD_eq_getElem?_getD,
    shaSchedule_getElem? block (by omega)]

/-- The first sixteen words are the block's (R203). -/
theorem shaSchedule_block (block : Vector Word 16) (t : Fin 16) : (shaSchedule block)[t.val]? = some block[t] := by
  have ht : t.val < 16 := t.isLt
  have hposition : 63 - t.val = 48 + (15 - t.val) := by omega
  have hreverse : 16 - 1 - (15 - t.val) = t.val := by omega
  rw [shaSchedule_getElem? block (by omega), hposition, ← List.getElem?_drop, shaLatestFirst, shaExtend_drop,
    List.getElem?_reverse (by simp; omega), Vector.length_toList, hreverse]
  simp

/-- The others are each the next word after those before it (R203). -/
theorem shaSchedule_next (block : Vector Word 16) {t : Nat} (h16 : 16 ≤ t) (ht : t < 64) :
    (shaSchedule block).getD t 0 = shaNextWord ((shaLatestFirst block).drop (63 - t + 1)) := by
  have hcons := shaExtend_drop_eq_cons (k := 48) (i := 63 - t) (by omega) block.toList.reverse
  have hhead := List.getElem?_drop (xs := shaLatestFirst block) (i := 63 - t) (j := 0)
  rw [List.getD_eq_getElem?_getD, shaSchedule_getElem? block ht, ← Nat.add_zero (63 - t), ← hhead, shaLatestFirst,
    hcons]
  rfl

/-! ## The rounds -/

/-- Rounds in order are a run of working variables, one round from each to the next (R204). -/
theorem shaRounds_eq_of_run {v : Nat → ShaVars} (l : List (Word × Word))
    (hrun : ∀ t, (ht : t < l.length) → v (t + 1) = shaRound l[t].1 l[t].2 (v t)) :
    shaRounds l (v 0) = v l.length := by
  induction l generalizing v with
  | nil => rfl
  | cons kw rest ih =>
    have hfirst : v 1 = shaRound kw.1 kw.2 (v 0) := hrun 0 (Nat.succ_pos _)
    rw [shaRounds, ← hfirst]
    exact ih (v := fun t => v (t + 1)) fun t ht => hrun (t + 1) (Nat.succ_lt_succ ht)

end Sys2Proof.Machine
end

section
/-! The constants of the compression (R201, R202) as roots of primes: the first primes by a sieve, and the whole part of
a root scaled by `2^32`. -/

namespace Sys2Proof.Machine

/-! ## The first primes -/

/-- No number from 2 up to `s` but `n` itself divides `n`. -/
@[reducible] def NoFactorBelow (s n : Nat) : Prop := 2 ≤ n ∧ ∀ d < s, 2 ≤ d → d ∣ n → d = n

/-- Trial division up to the square root finds the primes: the least factor of a composite number is no larger. -/
theorem noFactorBelow_iff_prime {s n : Nat} (hn : n < s ^ 2) : NoFactorBelow s n ↔ n.Prime := by
  constructor
  · rintro ⟨h2, hfactor⟩
    by_contra hcomposite
    have hleast : n.minFac.Prime := Nat.minFac_prime (by omega)
    have hsquare : n.minFac ^ 2 ≤ n := Nat.minFac_sq_le_self (by omega) hcomposite
    have hlt : n.minFac < s := lt_of_pow_lt_pow_left' 2 (hsquare.trans_lt hn)
    exact hcomposite (hfactor _ hlt hleast.two_le n.minFac_dvd ▸ hleast)
  · intro hprime
    refine ⟨hprime.two_le, fun d _ h2 hdvd => ?_⟩
    exact (hprime.eq_one_or_self_of_dvd d hdvd).resolve_left (by omega)

/-- Of the numbers below `N` with a property, in order, the one at position `t` has `t` such numbers below it. -/
theorem count_of_getElem?_filter_range {P : Nat → Prop} [DecidablePred P] {N t p : Nat}
    (h : ((List.range N).filter fun n => decide (P n))[t]? = some p) : P p ∧ Nat.count P p = t := by
  induction N with
  | zero => simp at h
  | succ N ih =>
    rw [List.range_succ, List.filter_append, List.getElem?_append] at h
    split at h
    next hbefore => exact ih h
    next hbefore =>
      by_cases hN : P N
      · have hlength : ((List.range N).filter fun n => decide (P n)).length = Nat.count P N :=
          List.countP_eq_length_filter.symm
        obtain ⟨hlast, rfl⟩ : t - Nat.count P N = 0 ∧ N = p := by
          simpa [hN, hlength, List.getElem?_singleton] using h
        exact ⟨hN, by omega⟩
      · simp [hN] at h

/-- The first 64 primes. -/
def firstPrimes : Vector Nat 64 := #v[
  2, 3, 5, 7, 11, 13, 17, 19, 23, 29, 31, 37, 41, 43, 47, 53, 59, 61, 67, 71, 73, 79, 83, 89, 97, 101, 103, 107, 109,
  113, 127, 131, 137, 139, 149, 151, 157, 163, 167, 173, 179, 181, 191, 193, 197, 199, 211, 223, 227, 229, 233, 239,
  241, 251, 257, 263, 269, 271, 277, 281, 283, 293, 307, 311]

theorem firstPrimes_toList : firstPrimes.toList = (List.range 312).filter fun n => decide (NoFactorBelow 19 n) := by
  decide

theorem firstPrimes_toList_prime : firstPrimes.toList = (List.range 312).filter fun n => decide n.Prime := by
  rw [firstPrimes_toList]
  refine List.filter_congr fun n hn => decide_eq_decide.mpr (noFactorBelow_iff_prime ?_)
  have := List.mem_range.mp hn
  omega

/-- The entry at `t` is the prime with `t` primes below it (R201, R202). -/
theorem firstPrimes_prime_count {t : Nat} (ht : t < 64) :
    firstPrimes[t].Prime ∧ Nat.count Nat.Prime firstPrimes[t] = t := by
  apply count_of_getElem?_filter_range (N := 312)
  rw [← firstPrimes_toList_prime]
  simp [ht]

/-! ## Scaled roots -/

/-- The whole part of the `e`-th root of `p` scaled by `2^32`, where the root is below 8 and its fraction begins with
the 32 bits given. -/
def scaledRoot (e p : Nat) (fraction : Word) : Nat := Nat.findGreatest (fun c => c ^ e ≤ p) 7 * 2 ^ 32 + fraction.toNat

theorem scaledRoot_mod (e p : Nat) (fraction : Word) : scaledRoot e p fraction % 2 ^ 32 = fraction.toNat := by
  rw [scaledRoot, Nat.mul_add_mod', Nat.mod_eq_of_lt fraction.isLt]

/-- Each round constant is the fraction of the cube root of its prime (R201). -/
theorem shaK_cubeRoot : ∀ t : Fin 64,
    scaledRoot 3 firstPrimes[t.val] shaK[t] ^ 3 ≤ firstPrimes[t.val] * 2 ^ 96 ∧
      firstPrimes[t.val] * 2 ^ 96 < (scaledRoot 3 firstPrimes[t.val] shaK[t] + 1) ^ 3 := by
  decide

/-- Each word of the initial value is the fraction of the square root of its prime (R202). -/
theorem shaIV_squareRoot : ∀ j : Fin 8,
    scaledRoot 2 firstPrimes[j.val] shaIV[j] ^ 2 ≤ firstPrimes[j.val] * 2 ^ 64 ∧
      firstPrimes[j.val] * 2 ^ 64 < (scaledRoot 2 firstPrimes[j.val] shaIV[j] + 1) ^ 2 := by
  decide

end Sys2Proof.Machine
end

section
/-! The statements of 42_crypto.md on the compression. -/

namespace Sys2Proof.Machine

/-- Settles O46: the schedule is the words made latest first, read backwards: the block's at the far end, each other
one made from those before it. -/
theorem messageScheduleFollowsRecurrence : Obligations.MessageScheduleFollowsRecurrence := by
  intro block
  refine ⟨shaSchedule_length block, shaSchedule_block block, fun t h16 ht => ?_⟩
  have hword {j : Nat} (hj : j < 16) := shaLatestFirst_drop_getD block (t := t) (j := j) (by omega) ht
  rw [shaSchedule_next block h16 ht, shaNextWord, hword (by decide), hword (by decide), hword (by decide),
    hword (by decide)]

/-- Settles O47: the working variables given are a run over the pairs of `K[t]` and `W[t]`. -/
theorem compressionIsSixtyFourRounds : Obligations.CompressionIsSixtyFourRounds := by
  intro hash block v hstart hround
  have hlength : (shaK.toList.zip (shaSchedule block)).length = 64 := by simp
  have hrounds : shaRounds (shaK.toList.zip (shaSchedule block)) (shaStart hash) = v 64 := by
    rw [shaStart, ← hstart]
    refine (shaRounds_eq_of_run _ fun t ht => ?_).trans (congrArg v hlength)
    have ht64 : t < 64 := hlength ▸ ht
    have hword : (shaSchedule block).getD t 0 = (shaSchedule block)[t]'(by simpa using ht64) :=
      List.getD_eq_getElem _ _ _
    rw [hround ⟨t, ht64⟩]
    simp only [hword, List.getElem_zip, Vector.getElem_toList]
    rfl
  rw [shaCompress, hrounds]

/-- Settles O48: bit by bit, rotations and shifts first. -/
theorem shaFunctionsBitByBit : Obligations.ShaFunctionsBitByBit := by
  intro x y z i hi r
  have hrotr : ∀ k < 32, (rotr x k).getLsbD i = r k := fun k hk => rotr_getLsbD x hk hi
  refine ⟨hrotr, ?_, ?_, ?_, ?_, ?_, ?_⟩
  · simp [shaCh, hi]
  · simp [shaMaj]
  · simp [shaBigS0, hrotr]
  · simp [shaBigS1, hrotr]
  · simp [shaSmallS0, hrotr, ushiftRight_getLsbD_of_word, -BitVec.getLsbD_ushiftRight]
  · simp [shaSmallS1, hrotr, ushiftRight_getLsbD_of_word, -BitVec.getLsbD_ushiftRight]

/-- Settles O49: the tables are the model's, and each entry is the fraction of the root of the prime at its position
among the first primes. -/
theorem shaConstantsAreRootsOfPrimes : Obligations.ShaConstantsAreRootsOfPrimes := by
  refine ⟨rfl, rfl, fun t => ?_, fun j => ?_⟩
  · obtain ⟨hprime, hcount⟩ := firstPrimes_prime_count t.isLt
    obtain ⟨hle, hlt⟩ := shaK_cubeRoot t
    exact ⟨firstPrimes[t.val], scaledRoot 3 firstPrimes[t.val] shaK[t], hprime, hcount, hle, hlt,
      (scaledRoot_mod ..).symm⟩
  · obtain ⟨hprime, hcount⟩ := firstPrimes_prime_count (j.isLt.trans (by decide))
    obtain ⟨hle, hlt⟩ := shaIV_squareRoot j
    exact ⟨firstPrimes[j.val], scaledRoot 2 firstPrimes[j.val] shaIV[j], hprime, hcount, hle, hlt,
      (scaledRoot_mod ..).symm⟩

end Sys2Proof.Machine
end

section
/-! What an instruction answers to the host: a byte when the encoder writes it as a read, nothing otherwise (R80, R93;
log entry 4). -/

namespace Sys2Proof.Machine

/-! ## The `W` bit of an encoded word -/

/-- The word is an access with its `W` bit 0 (R80). -/
def IsReadWord (w : BusWord) : Prop := ∃ v : BitVec 10, v.getLsbD 8 = false ∧ (w = .ta v ∨ w = .ca v)

/-- The encoder puts `W` above the eight offset bits (R80). -/
theorem accessWord_write (p wr : Bool) (off : BitVec 8) : (accessWord p wr off).getLsbD 8 = wr :=
  BitVec.getLsbD_append.trans (by cases p <;> cases wr <;> rfl)

theorem isReadWord_taTransaction (p : Variant) (wr : Bool) (off : TimerOffset) (b : Byte) :
    IsReadWord (taTransaction p wr off b).word ↔ wr = false := by
  have hwrite := accessWord_write (variantBit p) wr off
  constructor
  · rintro ⟨v, hv, hword | hword⟩ <;> cases hword
    exact hwrite.symm.trans hv
  · exact fun hwr => ⟨_, hwrite.trans hwr, .inl rfl⟩

theorem isReadWord_caTransaction (a : Access) (wr : Bool) (off : CryptoOffset) (b : Byte) :
    IsReadWord (caTransaction a wr off b).word ↔ wr = false := by
  have hwrite := accessWord_write (accessBit a) wr off
  constructor
  · rintro ⟨v, hv, hword | hword⟩ <;> cases hword
    exact hwrite.symm.trans hv
  · exact fun hwr => ⟨_, hwrite.trans hwr, .inr rfl⟩

theorem not_isReadWord_evTransaction (code : BitVec 2) (c1 : Bool) : ¬ IsReadWord (evTransaction code c1).word := by
  rintro ⟨v, hv, hword | hword⟩ <;> cases hword

/-! ## The reply of each shared operation -/

theorem timerRead_reply {r : TimerReg} {k : Lane} {s t : State} (h : timerRead r k s = .next t) :
    t.reply.isSome = true := by
  rw [timerRead_next h]
  rfl

theorem timerWrite_reply {r : TimerReg} {k : Lane} {b : Byte} {s t : State} (h : timerWrite r k b s = .next t) :
    ¬ t.reply.isSome = true := by
  rw [timerWrite_next h]
  exact Bool.false_ne_true

/-- A locked read answers too, the byte it replays (R183). -/
theorem cryptoRead_reply {a : Access} {idx : WordIndex} {k : Lane} {s t : State} (h : cryptoRead a idx k s = .next t) :
    t.reply.isSome = true := by
  obtain ⟨_, rfl⟩ | ⟨_, _, _, rfl⟩ | ⟨_, _, _, rfl⟩ := cryptoRead_cases h <;> rfl

theorem cryptoWrite_reply {a : Access} {idx : WordIndex} {f : CryptoBlock → CryptoBlock} {s t : State}
    (h : cryptoWrite a idx f s = .next t) : ¬ t.reply.isSome = true := by
  obtain ⟨_, rfl⟩ | ⟨_, _, _, rfl⟩ | ⟨_, _, _, rfl⟩ := cryptoWrite_cases h <;> exact Bool.false_ne_true

theorem tcycleWith_reply {c : Config} {clk1 : Bool} {s t : State} (h : tcycleWith c clk1 s = .next t) :
    ¬ t.reply.isSome = true := by
  rw [tcycleWith_next h]
  exact Bool.false_ne_true

theorem execTreset_reply {s t : State} (h : execTreset s = .next t) : ¬ t.reply.isSome = true := by
  rw [execTreset_next h]
  exact Bool.false_ne_true

theorem execCreset_reply {s t : State} (h : execCreset s = .next t) : ¬ t.reply.isSome = true := by
  rw [execCreset_next h]
  exact Bool.false_ne_true

/-! ## The reply of each instruction -/

/-- The instructions that answer a byte are those the encoder writes with `W` 0 (R80, R93). -/
theorem exec_reply {i : Instr} {s t : State} (h : exec i s = .next t) :
    t.reply.isSome = true ↔ IsReadWord (encode i).word := by
  cases i with
  | trdCnt0 | trdRld0 | trdM00 | trdM10 | trdCnt1 | trdRld1 | trdM01 | trdM11
  | trdCnt2 | trdRld2 | trdM02 | trdM12 | trdCtrl | trdStatus | trdMask | trdRev
  | trdOorA | trdOorB =>
    exact iff_of_true (timerRead_reply h) ((isReadWord_taTransaction ..).mpr rfl)
  | twrCnt0 | twrRld0 | twrM00 | twrM10 | twrCnt1 | twrRld1 | twrM01 | twrM11
  | twrCnt2 | twrRld2 | twrM02 | twrM12 | twrCtrl | twrStatus | twrMask | twrRev
  | twrOorA | twrOorB =>
    exact iff_of_false (timerWrite_reply h) ((isReadWord_taTransaction ..).not.mpr nofun)
  | crdLast | crdBlockA | crdBlockB | crdBlockC | crdState | crdNone =>
    exact iff_of_true (cryptoRead_reply h) ((isReadWord_caTransaction ..).mpr rfl)
  | cwrCtrl a v =>
    exact iff_of_false (cryptoWrite_reply (f := fun c => c.controlOp v) h) ((isReadWord_caTransaction ..).not.mpr nofun)
  | cwrBlockA a j k b | cwrBlockB a j k b | cwrBlockC a j k b =>
    exact iff_of_false (cryptoWrite_reply (f := fun c => c.writeBlock j k b) h)
      ((isReadWord_caTransaction ..).not.mpr nofun)
  | cwrLast | cwrState | cwrNone =>
    exact iff_of_false (cryptoWrite_reply (f := id) h) ((isReadWord_caTransaction ..).not.mpr nofun)
  | tcycle => exact iff_of_false (tcycleWith_reply h) (not_isReadWord_evTransaction _ _)
  | treset => exact iff_of_false (execTreset_reply h) (not_isReadWord_evTransaction _ _)
  | creset => exact iff_of_false (execCreset_reply h) (not_isReadWord_evTransaction _ _)

end Sys2Proof.Machine
end

section
/-! An interrupt line through each of the things an instruction can do to the TimerBlock (R121, R153, R232). -/

namespace Sys2Proof.Machine

/-- No unmasked pending bit is left: every status bit of the timer is clear or masked (R232). -/
theorem unmasked_eq_false_iff (t : TimerBlock) (n : TimerIx) : t.unmasked n = false ↔
    ∀ k < 3, t.status.getLsbD (3 * n.val + k) = true → t.mask.getLsbD (3 * n.val + k) = true := by
  rw [← Bool.not_eq_true, unmasked_eq, unmaskedIn_iff]
  simp only [not_exists, not_and, Bool.not_eq_false]

@[simp] theorem TimerBlock.reset_unmasked (revision : Word) (n : TimerIx) :
    (TimerBlock.reset revision).unmasked n = false := by
  simp [unmasked_eq_false_iff, TimerBlock.reset]

/-- A write keeps the line, or recomputes it from the `status` and `mask` it leaves (R121, R122, R126). -/
theorem TimerBlock.writeSlot_irq_get (t : TimerBlock) (r : TimerReg) (k : Lane) (b : Byte) (n : TimerIx) :
    (t.writeSlot r k b).irq[n] = t.irq[n] ∨ (t.writeSlot r k b).irq[n] = (t.writeSlot r k b).unmasked n := by
  cases r with
  | status | mask => exact .inr (TimerBlock.irqRecompute_irq_get _ n)
  | cnt | rld | m0 | m1 | ctrl | revision | outside => exact .inl rfl

/-- Ageing drops no justified line: its pending bit stays, so a due entry assigns it high again (R152, R153). -/
theorem irqAfterAge_of_asserted {t : TimerBlock} (h : t.irqJustified) {n : TimerIx} (hirq : t.irq[n] = true) :
    t.irqAfterAge[n] = true := by
  rw [irqAfterAge_get]
  split
  · exact unmasked_statusAfterAge (h n hirq)
  · exact hirq

/-- An asserted line is kept by every instruction that leaves its timer an unmasked pending bit (R232). -/
theorem exec_keeps_line {i : Instr} {s t : State} {n : TimerIx} (h : exec i s = .next t)
    (hjust : s.timer.irqJustified) (hirq : s.timer.irq[n] = true) (hpend : t.timer.unmasked n = true) :
    t.timer.irq[n] = true := by
  obtain heq | ⟨r, k, b, _, heq⟩ | ⟨clk1, _, heq⟩ | ⟨_, heq⟩ := exec_timer_cases h <;> rw [heq] at hpend ⊢
  · exact hirq
  · obtain hkept | hrecomputed := s.timer.writeSlot_irq_get r k b n
    · exact hkept.trans hirq
    · exact hrecomputed.trans hpend
  · rw [cycle_irq]
    exact irqAfterAge_of_asserted hjust hirq
  · rw [TimerBlock.reset_unmasked] at hpend
    cases hpend

end Sys2Proof.Machine
end

section
/-! The statements of 60_exceptions.md. -/

namespace Sys2Proof.Machine

/-- Settles O25: while an unmasked pending bit is left, a write or a cycle keeps the line, and a reset leaves no such
bit. -/
theorem interruptLineIsLevel : Obligations.InterruptLineIsLevel := by
  intro i s n hjust hirq
  obtain ⟨t, ht⟩ := exec_completes i s
  refine ⟨t, ht, fun hfallen => (unmasked_eq_false_iff t.timer n).mp ?_⟩
  rw [← Bool.not_eq_true]
  exact fun hpend => Bool.false_ne_true (hfallen.symm.trans (exec_keeps_line ht hjust hirq hpend))

/-- Settles O8: completion and the host's transactions by what an instruction can do, the reply by its encoding. -/
theorem everyInstructionCompletes : Obligations.EveryInstructionCompletes := by
  intro i s
  obtain ⟨t, ht⟩ := exec_completes i s
  exact ⟨t, ht, exec_pending ht, exec_reply ht⟩

end Sys2Proof.Machine
end

section
/-! What the two resets leave, and how they run in a sequence (R260-R263). -/

namespace Sys2Proof.Machine

/-! ## The fields of the reset blocks -/

@[simp] theorem TimerBlock.reset_timers_get (revision : Word) (n : TimerIx) :
    (TimerBlock.reset revision).timers[n] = TimerRegs.reset := by
  simp [TimerBlock.reset]

@[simp] theorem TimerBlock.reset_irq_get (revision : Word) (n : TimerIx) :
    (TimerBlock.reset revision).irq[n] = false := by
  simp [TimerBlock.reset]

@[simp] theorem CryptoBlock.reset_hash_get (j : Fin 8) : CryptoBlock.reset.hash[j] = 0 := by
  simp [CryptoBlock.reset]

@[simp] theorem CryptoBlock.reset_block_get (j : Fin 16) : CryptoBlock.reset.block[j] = 0 := by
  simp [CryptoBlock.reset]

/-! ## The states the resets leave -/

/-- The state TRESET leaves (R260). -/
def State.timerReset (s : State) : State := (s.setTimer (TimerBlock.reset s.timer.revision)).answer none []

/-- The state CRESET leaves (R261). -/
def State.cryptoReset (s : State) : State := (s.setCrypto CryptoBlock.reset).answer none []

theorem exec_treset (s : State) : exec .treset s = .next s.timerReset := rfl

theorem exec_creset (s : State) : exec .creset s = .next s.cryptoReset := rfl

/-- TRESET keeps `revision`, so a second one finds its own reset values (R260). -/
@[simp] theorem State.timerReset_timerReset (s : State) : s.timerReset.timerReset = s.timerReset := rfl

@[simp] theorem State.cryptoReset_cryptoReset (s : State) : s.cryptoReset.cryptoReset = s.cryptoReset := rfl

/-- Each reset leaves the other's block alone (R262). -/
theorem State.timerReset_cryptoReset (s : State) : s.timerReset.cryptoReset = s.cryptoReset.timerReset := rfl

/-- After both resets the blocks are those of power-on, when `revision` is the constant (R263, R28). -/
theorem State.powerOn_of_resets {s : State} (hrevision : s.timer.revision = Config.params.revision) :
    s.timerReset.cryptoReset.timer = State.reset.timer ∧ s.timerReset.cryptoReset.crypto = State.reset.crypto :=
  ⟨congrArg TimerBlock.reset hrevision, rfl⟩

/-! ## Sequences -/

theorem execAll_nil (s : State) : execAll [] s = .next s := rfl

theorem execAll_cons_of_next {i : Instr} {s t : State} (h : exec i s = .next t) (rest : List Instr) :
    execAll (i :: rest) s = execAll rest t := by
  rw [execAll, h]

theorem execAll_treset_cons (rest : List Instr) (s : State) :
    execAll (.treset :: rest) s = execAll rest s.timerReset :=
  execAll_cons_of_next (exec_treset s) rest

theorem execAll_creset_cons (rest : List Instr) (s : State) :
    execAll (.creset :: rest) s = execAll rest s.cryptoReset :=
  execAll_cons_of_next (exec_creset s) rest

end Sys2Proof.Machine
end

section
/-! A TimerBlock that block cycles leave as it is: no timer enabled, so none counts or raises an event, and nothing in
flight, so nothing matures (R141, R147, R150). The reset block is one. -/

namespace Sys2Proof.Machine

/-- No timer is enabled and both delay pipelines are empty. -/
def TimerBlock.Quiet (t : TimerBlock) : Prop :=
  (∀ n, ctrlEn t.ctrl n = false) ∧ t.delayStatus = [] ∧ t.delayIntrpt = []

theorem TimerBlock.quiet_reset (revision : Word) : (TimerBlock.reset revision).Quiet :=
  ⟨fun _ => BitVec.getLsbD_zero, rfl, rfl⟩

/-- A timer that is not enabled does not count, on either clock (R141). -/
theorem countsThisCycle_of_disabled {t : TimerBlock} {n : TimerIx} (h : ctrlEn t.ctrl n = false) (clk1 : Bool) :
    t.countsThisCycle clk1 n = false := by
  simp only [TimerBlock.countsThisCycle, h, Bool.false_and]

/-- With no timer enabled every register is kept (R147). -/
theorem countedAll_of_disabled {t : TimerBlock} (h : ∀ n, ctrlEn t.ctrl n = false) (clk1 : Bool) :
    t.countedAll clk1 = t.timers := by
  ext1 n hn
  have hstill := countsThisCycle_of_disabled (h ⟨n, hn⟩) clk1
  refine (countedAll_get t clk1 ⟨n, hn⟩).trans ?_
  rw [if_neg (Bool.eq_false_iff.mp hstill)]
  rfl

/-- With no timer enabled no event is raised (R140). -/
theorem raised_of_disabled {t : TimerBlock} (h : ∀ n, ctrlEn t.ctrl n = false) (clk1 : Bool) :
    t.raised clk1 = [] := by
  simp [TimerBlock.raised, countsThisCycle_of_disabled (h _)]

/-- A block cycle changes nothing of a quiet block. -/
theorem cycle_of_quiet {t : TimerBlock} (h : t.Quiet) (c : Config) (clk1 : Bool) : (t.cycle c clk1).block = t := by
  obtain ⟨hdisabled, hstatus, hintrpt⟩ := h
  have hkeptStatus : t.keptStatus = t.delayStatus := by simp [TimerBlock.keptStatus, hstatus]
  have hkeptIntrpt : t.keptIntrpt = t.delayIntrpt := by simp [TimerBlock.keptIntrpt, hintrpt]
  have hstatusKept : t.statusAfterAge = t.status := statusAfterAge_of_none_due (by simp [hstatus])
  have hirqKept : t.irqAfterAge = t.irq := irqAfterAge_of_none_due (by simp [hintrpt])
  rw [cycle_eq, countedAll_of_disabled hdisabled, raised_of_disabled hdisabled, pushed_nil, pushed_nil, hkeptStatus,
    hkeptIntrpt, hstatusKept, hirqKept]

/-- Any number of cycles keeps a quiet TimerBlock, and the CryptoBlock with it (R140). -/
theorem cycles_of_quiet (clks : List Bool) {s : State} (h : s.timer.Quiet) :
    ∃ t, cycles clks s = .next t ∧ t.timer = s.timer ∧ t.crypto = s.crypto := by
  induction clks generalizing s with
  | nil => exact ⟨s, rfl, rfl, rfl⟩
  | cons clk1 rest ih =>
    have hkept := cycle_of_quiet h Config.params clk1
    obtain ⟨t, hrun, htimer, hcrypto⟩ := ih (s := (s.setTimer (s.timer.cycle Config.params clk1).block).answer none
      (s.timer.cycle Config.params clk1).diags) (hkept.symm ▸ h)
    exact ⟨t, (execAll_cons_of_next (exec_tcycle clk1 s) _).trans hrun, htimer.trans hkept, hcrypto⟩

end Sys2Proof.Machine
end

section
/-! The statements of 70_reset_and_hazards.md. -/

namespace Sys2Proof.Machine

/-- Settles O53: TRESET leaves a quiet block, which the cycles after it leave as it is. -/
theorem timerResetAbortsEventsInFlight : Obligations.TimerResetAbortsEventsInFlight := by
  intro s clks
  rw [execAll_treset_cons]
  exact cycles_of_quiet clks (s := s.timerReset) (TimerBlock.quiet_reset _)

/-- Settles O50: the fields of the reset block, which is the one part of the state TRESET replaces. -/
theorem timerResetZeroesTimerBlock : Obligations.TimerResetZeroesTimerBlock := by
  intro s
  refine ⟨s.timerReset, exec_treset s, fun n => ?_, rfl, rfl, rfl, rfl, rfl, rfl, rfl, rfl, rfl, rfl⟩
  have hregs : s.timerReset.timer.timers[n] = ⟨0, 0, 0, 0⟩ := TimerBlock.reset_timers_get _ n
  rw [hregs]
  exact ⟨rfl, rfl, rfl, rfl, TimerBlock.reset_irq_get _ n⟩

/-- Settles O51: the fields of the reset block, which is the one part of the state CRESET replaces. -/
theorem cryptoResetZeroesCryptoBlock : Obligations.CryptoResetZeroesCryptoBlock := by
  intro s
  exact ⟨s.cryptoReset, exec_creset s, CryptoBlock.reset_hash_get, CryptoBlock.reset_block_get, rfl, rfl, rfl, rfl, rfl⟩

/-- Settles O52: each sequence ends in the state both resets leave, because they commute and are idempotent. -/
theorem resetsAreIdempotentAndGivePowerOnState : Obligations.ResetsAreIdempotentAndGivePowerOnState := by
  intro s
  have hboth : execAll [.treset, .creset] s = .next s.timerReset.cryptoReset := by
    rw [execAll_treset_cons, execAll_creset_cons, execAll_nil]
  have hswapped : execAll [.creset, .treset] s = .next s.timerReset.cryptoReset := by
    rw [execAll_creset_cons, execAll_treset_cons, execAll_nil, State.timerReset_cryptoReset]
  have htwice : execAll [.treset, .treset, .creset, .creset] s = .next s.timerReset.cryptoReset := by
    rw [execAll_treset_cons, execAll_treset_cons, State.timerReset_timerReset, execAll_creset_cons, execAll_creset_cons,
      State.cryptoReset_cryptoReset, execAll_nil]
  exact ⟨_, _, _, hboth, hswapped, htwice, rfl, rfl, State.powerOn_of_resets⟩

end Sys2Proof.Machine
end
